-- ==== Sys2Proof/Word.lean ====
section
/-! DEFINITION. The word types of the CHIP-8 CORE: 8-bit bytes, 16-bit words, 4-bit nibbles and register numbers
(rules R4, R5 of spec/00_scope.md). -/

namespace Sys2Proof

/-- A byte: a cell of the Memory Image, a general register, a timer (`XLEN`, rule R4). -/
abbrev Byte := BitVec 8

/-- A 16-bit word: an opcode (`OPLEN`), the program counter (`PCLEN`), the index register (`ILEN`), a stack entry. -/
abbrev Word := BitVec 16

/-- A nibble, 4 bits (rule R5). -/
abbrev Nibble := BitVec 4

/-- A general register number, 0 to 15 (rule R11). -/
abbrev RegIdx := Fin 16

/-- The flag register, general register 15 (rule R12). -/
abbrev VF : RegIdx := 15

end Sys2Proof
end

