-- ==== Sys2Proof/Syntax.lean ====
section
/-! DEFINITION. The 31 instructions of table T-OPC (rule R74 of spec/30_encoding.md), one constructor a row of
spec/opcode_table.json, in the table's order. -/

namespace Sys2Proof

/-- An instruction. `x`, `y` are register numbers, `nn` an 8-bit immediate, `nnn` a 12-bit address, `n` a number of
sprite rows (rules R61, R72). A constructor's name is its mnemonic with the shape of its operands (V a register, N an
immediate). -/
inductive Instr
  /-- `CLS`, 00E0 -/
  | cls
  /-- `RET`, 00EE -/
  | ret
  /-- `JP nnn`, 1nnn -/
  | jp (nnn : BitVec 12)
  /-- `CALL nnn`, 2nnn -/
  | call (nnn : BitVec 12)
  /-- `SE Vx, nn`, 3xnn -/
  | seVN (x : RegIdx) (nn : Byte)
  /-- `SNE Vx, nn`, 4xnn -/
  | sneVN (x : RegIdx) (nn : Byte)
  /-- `SE Vx, Vy`, 5xy_ (the low nibble is no operand, rule R69) -/
  | seVV (x y : RegIdx)
  /-- `LD Vx, nn`, 6xnn -/
  | ldVN (x : RegIdx) (nn : Byte)
  /-- `ADD Vx, nn`, 7xnn -/
  | addVN (x : RegIdx) (nn : Byte)
  /-- `LD Vx, Vy`, 8xy0 -/
  | ldVV (x y : RegIdx)
  /-- `OR Vx, Vy`, 8xy1 -/
  | orVV (x y : RegIdx)
  /-- `AND Vx, Vy`, 8xy2 -/
  | andVV (x y : RegIdx)
  /-- `XOR Vx, Vy`, 8xy3 -/
  | xorVV (x y : RegIdx)
  /-- `ADD Vx, Vy`, 8xy4 -/
  | addVV (x y : RegIdx)
  /-- `SUB Vx, Vy`, 8xy5 -/
  | subVV (x y : RegIdx)
  /-- `SHR Vx, Vy`, 8xy6 -/
  | shrVV (x y : RegIdx)
  /-- `SUBN Vx, Vy`, 8xy7 -/
  | subnVV (x y : RegIdx)
  /-- `SNE Vx, Vy`, 9xy_ (the low nibble is no operand, rule R69) -/
  | sneVV (x y : RegIdx)
  /-- `LD I, nnn`, Annn -/
  | ldIN (nnn : BitVec 12)
  /-- `RND Vx, nn`, Cxnn -/
  | rndVN (x : RegIdx) (nn : Byte)
  /-- `DRW Vx, Vy, n`, Dxyn -/
  | drw (x y : RegIdx) (n : Nat)
  /-- `SKP Vx`, Ex9E -/
  | skp (x : RegIdx)
  /-- `SKNP Vx`, ExA1 -/
  | sknp (x : RegIdx)
  /-- `LD Vx, DT`, Fx07 -/
  | ldVDT (x : RegIdx)
  /-- `LD Vx, K`, Fx0A -/
  | ldVK (x : RegIdx)
  /-- `LD DT, Vx`, Fx15 -/
  | ldDTV (x : RegIdx)
  /-- `LD ST, Vx`, Fx18 -/
  | ldSTV (x : RegIdx)
  /-- `ADD I, Vx`, Fx1E; `x = 15` decodes and is refused at execution (rules R68, R141) -/
  | addIV (x : RegIdx)
  /-- `BCD Vx`, Fx33 -/
  | bcd (x : RegIdx)
  /-- `LD [I], Vx`, Fx55: register dump -/
  | dump (x : RegIdx)
  /-- `LD Vx, [I]`, Fx65: register load -/
  | load (x : RegIdx)
  deriving DecidableEq, Repr

end Sys2Proof
end

