-- ==== Sys2Proof/WellFormed.lean ====
section
/-! DEFINITION. Which terms of `Instr` stand for an opcode. Register numbers and immediates have the width of their
field by type; the one field a term can get wrong is the number of sprite rows of `DRW`. -/

namespace Sys2Proof

/-- The number of sprite rows fits the 4-bit field `n` (rules R61, R72). -/
def rowsFit (n : Nat) : Bool := decide (n ≤ 15)

/-- Every operand fits its field of the opcode (rules R61, R62). -/
def Instr.wf : Instr → Bool
  | .drw _ _ n => rowsFit n
  | .cls | .ret | .jp _ | .call _ | .seVN _ _ | .sneVN _ _ | .seVV _ _ | .ldVN _ _ | .addVN _ _ | .ldVV _ _
  | .orVV _ _ | .andVV _ _ | .xorVV _ _ | .addVV _ _ | .subVV _ _ | .shrVV _ _ | .subnVV _ _ | .sneVV _ _
  | .ldIN _ | .rndVN _ _ | .skp _ | .sknp _ | .ldVDT _ | .ldVK _ | .ldDTV _ | .ldSTV _ | .addIV _ | .bcd _
  | .dump _ | .load _ => true

end Sys2Proof
end

