-- ==== Sys2Proof/Decode.lean ====
section
/-! DEFINITION. The decoder of rule R63 (spec/30_encoding.md), total on all 65536 opcodes and rejecting by name, and
after it the encoder, written from the formats of table T-FMT (rule R62) and the opcode map T-OPC (rule R74). -/

namespace Sys2Proof

/-- The two failures of the decode stage (rules R70, R71), each with the offending opcode. -/
inductive DecodeError
  /-- No family matches (rule R70). -/
  | invalidOpcode (op : Word)
  /-- The family is recognised, the sub-opcode is not defined (rule R71). -/
  | unimplementedOpcode (op : Word)
  deriving DecidableEq, Repr

/-- `fam = op[15:12]`, the top nibble (rule R61). -/
def famField (op : Word) : Nibble := op.extractLsb' 12 4

/-- `x = op[11:8]` (rule R61). -/
def xField (op : Word) : RegIdx := (op.extractLsb' 8 4).toFin

/-- `y = op[7:4]` (rule R61). -/
def yField (op : Word) : RegIdx := (op.extractLsb' 4 4).toFin

/-- `n = op[3:0]` (rule R61). -/
def nField (op : Word) : Nibble := op.extractLsb' 0 4

/-- `nn = op[7:0]` (rule R61). -/
def nnField (op : Word) : Byte := op.extractLsb' 0 8

/-- `nnn = op[11:0]` (rule R61). -/
def nnnField (op : Word) : BitVec 12 := op.extractLsb' 0 12

/-- Family `0x8`: the sub-opcode is the low nibble (rule R66). -/
def decodeAlu (op : Word) : Except DecodeError Instr :=
  match nField op with
  | 0x0 => .ok (.ldVV (xField op) (yField op))
  | 0x1 => .ok (.orVV (xField op) (yField op))
  | 0x2 => .ok (.andVV (xField op) (yField op))
  | 0x3 => .ok (.xorVV (xField op) (yField op))
  | 0x4 => .ok (.addVV (xField op) (yField op))
  | 0x5 => .ok (.subVV (xField op) (yField op))
  | 0x6 => .ok (.shrVV (xField op) (yField op))
  | 0x7 => .ok (.subnVV (xField op) (yField op))
  | _ => .error (.unimplementedOpcode op)

/-- Family `0xE`: the sub-opcode is the low byte (rule R67). -/
def decodeKey (op : Word) : Except DecodeError Instr :=
  match nnField op with
  | 0x9E => .ok (.skp (xField op))
  | 0xA1 => .ok (.sknp (xField op))
  | _ => .error (.unimplementedOpcode op)

/-- Family `0xF`: the sub-opcode is the low byte (rule R68). -/
def decodeMisc (op : Word) : Except DecodeError Instr :=
  match nnField op with
  | 0x07 => .ok (.ldVDT (xField op))
  | 0x0A => .ok (.ldVK (xField op))
  | 0x15 => .ok (.ldDTV (xField op))
  | 0x18 => .ok (.ldSTV (xField op))
  | 0x1E => .ok (.addIV (xField op))
  | 0x33 => .ok (.bcd (xField op))
  | 0x55 => .ok (.dump (xField op))
  | 0x65 => .ok (.load (xField op))
  | _ => .error (.unimplementedOpcode op)

/-- The dispatch on the top nibble (rule R63), after the two literals. -/
def decodeFamily (op : Word) : Except DecodeError Instr :=
  match famField op with
  | 0x0 => .error (.unimplementedOpcode op)
  | 0x1 => .ok (.jp (nnnField op))
  | 0x2 => .ok (.call (nnnField op))
  | 0x3 => .ok (.seVN (xField op) (nnField op))
  | 0x4 => .ok (.sneVN (xField op) (nnField op))
  | 0x5 => .ok (.seVV (xField op) (yField op))
  | 0x6 => .ok (.ldVN (xField op) (nnField op))
  | 0x7 => .ok (.addVN (xField op) (nnField op))
  | 0x8 => decodeAlu op
  | 0x9 => .ok (.sneVV (xField op) (yField op))
  | 0xA => .ok (.ldIN (nnnField op))
  | 0xC => .ok (.rndVN (xField op) (nnField op))
  | 0xD => .ok (.drw (xField op) (yField op) (nField op).toNat)
  | 0xE => decodeKey op
  | 0xF => decodeMisc op
  | _ => .error (.invalidOpcode op)

/-- `decode(op)` (rule R63). The two literals `0x00E0` and `0x00EE` come before the family dispatch (rule R64). -/
def decode (op : Word) : Except DecodeError Instr :=
  if op = 0x00E0 then .ok .cls
  else if op = 0x00EE then .ok .ret
  else decodeFamily op

/-- The opcode of two consecutive bytes, big-endian: the byte at the lower address is `op[15:8]` (rule R45). -/
def opcodeOf (hi lo : Byte) : Word := hi ++ lo

/-- The decoder on the two bytes of an instruction in memory order. -/
def decodeBytes (hi lo : Byte) : Except DecodeError Instr := decode (opcodeOf hi lo)

/-- The high byte of an opcode, at the lower address (rule R45). -/
def hiByte (op : Word) : Byte := op.extractLsb' 8 8

/-- The low byte of an opcode, at the higher address (rule R45). -/
def loByte (op : Word) : Byte := op.extractLsb' 0 8

/-- Format NNN of table T-FMT. -/
def formNNN (fam : Nibble) (nnn : BitVec 12) : Word := fam ++ nnn

/-- Format XNN of table T-FMT; format XSS is the same with the sub-opcode in `nn`. -/
def formXNN (fam : Nibble) (x : RegIdx) (nn : Byte) : Word := fam ++ (BitVec.ofFin x : Nibble) ++ nn

/-- Formats XY_, XYS and XYN of table T-FMT. -/
def formXYN (fam : Nibble) (x y : RegIdx) (n : Nibble) : Word :=
  fam ++ (BitVec.ofFin x : Nibble) ++ (BitVec.ofFin y : Nibble) ++ n

/-- The opcode of a well-formed instruction (table T-OPC, rule R74). The ignored low nibble of `5xy_` and `9xy_` gets
its canonical value 0 (rule R69). -/
def encode : Instr → Word
  | .cls => 0x00E0
  | .ret => 0x00EE
  | .jp nnn => formNNN 0x1 nnn
  | .call nnn => formNNN 0x2 nnn
  | .seVN x nn => formXNN 0x3 x nn
  | .sneVN x nn => formXNN 0x4 x nn
  | .seVV x y => formXYN 0x5 x y 0x0
  | .ldVN x nn => formXNN 0x6 x nn
  | .addVN x nn => formXNN 0x7 x nn
  | .ldVV x y => formXYN 0x8 x y 0x0
  | .orVV x y => formXYN 0x8 x y 0x1
  | .andVV x y => formXYN 0x8 x y 0x2
  | .xorVV x y => formXYN 0x8 x y 0x3
  | .addVV x y => formXYN 0x8 x y 0x4
  | .subVV x y => formXYN 0x8 x y 0x5
  | .shrVV x y => formXYN 0x8 x y 0x6
  | .subnVV x y => formXYN 0x8 x y 0x7
  | .sneVV x y => formXYN 0x9 x y 0x0
  | .ldIN nnn => formNNN 0xA nnn
  | .rndVN x nn => formXNN 0xC x nn
  | .drw x y n => formXYN 0xD x y (BitVec.ofNat 4 n)
  | .skp x => formXNN 0xE x 0x9E
  | .sknp x => formXNN 0xE x 0xA1
  | .ldVDT x => formXNN 0xF x 0x07
  | .ldVK x => formXNN 0xF x 0x0A
  | .ldDTV x => formXNN 0xF x 0x15
  | .ldSTV x => formXNN 0xF x 0x18
  | .addIV x => formXNN 0xF x 0x1E
  | .bcd x => formXNN 0xF x 0x33
  | .dump x => formXNN 0xF x 0x55
  | .load x => formXNN 0xF x 0x65

/-- The bytes of an instruction in memory order (rules R45, R60). -/
def encodeBytes (i : Instr) : List Byte := [hiByte (encode i), loByte (encode i)]

/-- The opcode the table's numbering gives: an instruction is one 16-bit word (rule R60), so bit `k` of `w` is
`op[k]`, and every bit from `nbits` on is 0. -/
def tableOpcode (nbits w : Nat) : Word := BitVec.ofNat 16 (w % 2 ^ nbits)

/-- What the decoder reads from the instruction whose bits are `w`: its two bytes are laid out as memory stores them
and decoded from there. -/
def decodeTableWord (nbits w : Nat) : Option Instr :=
  match decodeBytes (hiByte (tableOpcode nbits w)) (loByte (tableOpcode nbits w)) with
  | .ok i => some i
  | .error _ => none

end Sys2Proof
end

