-- ==== Sys2Proof/Config.lean ====
section
/-! DEFINITION. The parameters of the hardware (table T-PARAM, rule R4 of spec/00_scope.md) and its two free values. -/

namespace Sys2Proof

/-- `SHIFT_SRC`: which register `SHR` takes as its source (rule R130, decision D15; log 18). -/
inductive ShiftSrc
  | vy
  | vx
  deriving DecidableEq, Repr

/-- The configuration parameters that are constant for one run (table T-PARAM). The defaults are the spec's
(D7, D12, D15; log 4). -/
structure Config where
  /-- `MEM_SIZE`: how many cells the store has. It only bounds `END` (rule R42, D7). -/
  memSize : Nat := 4096
  /-- `STACK_DEPTH`: the capacity of the call stack; `none` is the unbounded stack (rule R18, D12). -/
  stackDepth : Option Nat := some 16
  /-- `SHIFT_SRC` (rule R130, D15). -/
  shiftSrc : ShiftSrc := .vy
  deriving DecidableEq, Repr

/-- The ranges table T-PARAM gives the configuration parameters. -/
def Config.legal (c : Config) : Bool :=
  decide (4096 ≤ c.memSize) && decide (c.memSize ≤ 65536) && c.stackDepth.all (fun d => decide (0 < d))

/-- `NOKEY`: the byte a read of the empty keyboard latch gives. The spec leaves it open with no default (rule R15,
D21), so it is an uninterpreted constant (log 1). -/
opaque Config.noKey : Byte

/-- The random byte of the `k`-th executed `RND`. The spec makes it a free draw under no law (rule R23, D31), so it is
an uninterpreted constant (log 2). -/
opaque Config.rnd : Nat → Byte

/-- Table T-FONT (rule R48), glyphs 0 to 7: the spec's default, from general knowledge (D8; log 5). -/
def Config.fontLow : List Byte :=
  [0xF0, 0x90, 0x90, 0x90, 0xF0] ++ [0x20, 0x60, 0x20, 0x20, 0x70] ++
  [0xF0, 0x10, 0xF0, 0x80, 0xF0] ++ [0xF0, 0x10, 0xF0, 0x10, 0xF0] ++
  [0x90, 0x90, 0xF0, 0x10, 0x10] ++ [0xF0, 0x80, 0xF0, 0x10, 0xF0] ++
  [0xF0, 0x80, 0xF0, 0x90, 0xF0] ++ [0xF0, 0x10, 0x20, 0x40, 0x40]

/-- Table T-FONT (rule R48), glyphs 8 to F. -/
def Config.fontHigh : List Byte :=
  [0xF0, 0x90, 0xF0, 0x90, 0xF0] ++ [0xF0, 0x90, 0xF0, 0x10, 0xF0] ++
  [0xF0, 0x90, 0xF0, 0x90, 0x90] ++ [0xE0, 0x90, 0xE0, 0x90, 0xE0] ++
  [0xF0, 0x80, 0x80, 0x80, 0xF0] ++ [0xE0, 0x90, 0x90, 0x90, 0xE0] ++
  [0xF0, 0x80, 0xF0, 0x80, 0xF0] ++ [0xF0, 0x80, 0xF0, 0x80, 0x80]

/-- `FONT`, the 80 glyph bytes at address 0x000 (rule R48). -/
def Config.font : List Byte := Config.fontLow ++ Config.fontHigh

/-- `LOW_FILL`, the 432 bytes at 0x050 to 0x1FF: the spec's default, all zero (rule R49, D9; log 6). -/
def Config.lowFill : List Byte := List.replicate 432 0x00

end Sys2Proof
end

