-- ==== Sys2Proof/Machine/State.lean ====
section
/-! DEFINITION. The whole state of the hardware (table T-STATE, rule R10 of spec/10_state.md), the fault kinds of table
T-FAULT (rule R170), the outcomes' reasons, and the state after reset (table T-RESET, rule R26). -/

namespace Sys2Proof.Machine

/-- The Memory Image (rule R40): the cells that differ from what an unlisted address reads as (`Memory.background`),
at strictly rising addresses (`Memory.wf`). -/
structure Memory where
  cells : List Host.Cell
  deriving DecidableEq, Repr

/-- The pixel grid (rule R19): 32 rows of 64 columns, `true` for set. -/
abbrev Grid := Vector (Vector Bool 64) 32

/-- A record of the event queue (rule R20). -/
inductive Event
  /-- `Pixel(x, y, s)`: the pixel at column `x`, row `y` now has the state `on`. -/
  | pixel (x : Fin 64) (y : Fin 32) (on : Bool)
  /-- `ClearAll`: every pixel is unset now. -/
  | clearAll
  deriving DecidableEq, Repr

/-- The six fault kinds (table T-FAULT, rule R170). -/
inductive FaultKind
  | invalidOpcode
  | unimplementedOpcode
  | addressOutOfBounds
  | stackUnderflow
  | reservedOperandMisuse
  | stackOverflow
  deriving DecidableEq, Repr

/-- The run state (rule R22). `info` is the offending opcode or the offending address, an unbounded integer
(rule R170, D27; log 29). -/
inductive RunState
  | running
  | halted (kind : FaultKind) (info : Nat)
  deriving DecidableEq, Repr

/-- The state of the machine: table T-STATE in its order, then the parameters of the run and the draw counter. -/
structure State where
  /-- The general registers `V[0]` to `V[15]` (rules R11, R12). -/
  V : Vector Byte 16
  /-- The delay timer (rule R13). -/
  DT : Byte
  /-- The sound timer (rule R14). -/
  ST : Byte
  /-- The index register (rule R16). -/
  I : Word
  /-- The program counter (rule R17; 16 bits: D6, log 12). -/
  pc : Word
  /-- The call stack, its top at the head of the list (rule R18; log 32). -/
  stack : List Word
  /-- The run state (rule R22). -/
  run : RunState
  /-- The display (rule R19). -/
  pixels : Grid
  /-- The event queue, oldest first (rule R20). -/
  events : List Event
  /-- The keyboard latch: empty, or one key code (rule R21). -/
  latch : Option (BitVec 4)
  /-- The Memory Image (rule R40). -/
  mem : Memory
  /-- `END`, the launch parameter: the valid upper bound of the Memory Image (rules R4, R42). No step changes it. -/
  endAddr : Nat
  /-- The configuration parameters of the run (rule R4). No step changes them (log 3). -/
  cfg : Config
  /-- The model's own field: how many `RND` have executed, so that each takes a fresh draw `Config.rnd draws`
  (rule R23; log 2). -/
  draws : Nat
  deriving DecidableEq, Repr

/-- Why the machine stops with the outcome `fault`. NO CONSTRUCTOR: the spec describes what raising each of its six
faults does (`run <- Halted(kind, info)`, rule R171), so a raise is a next state and nothing answers this outcome
(log 10). -/
inductive Fault
  deriving DecidableEq, Repr

/-- Why a step can be refused. -/
inductive Refusal
  /-- Raised by an arm of `exec` whose instruction has no meaning in the model. Safe. No arm raises it. -/
  | notModelled (mnemonic : String)
  deriving DecidableEq, Repr

/-- The state right after reset (table T-RESET, rule R26), with the spec's default configuration (log 4) and the empty
program: `END = 0x200` (log 9). -/
def State.reset : State where
  V := Vector.replicate 16 0x00
  DT := 0x00
  ST := 0x00
  I := 0x0000
  pc := 0x0200
  stack := []
  run := .running
  pixels := Vector.replicate 32 (Vector.replicate 64 false)
  events := []
  latch := none
  mem := ⟨[]⟩
  endAddr := 0x200
  cfg := {}
  draws := 0

end Sys2Proof.Machine
end

