-- ==== Sys2Proof/Machine/Ops.lean ====
section
/-! DEFINITION. The named operations over registers, memory, the stack, the display and the run state: the primitives
of rule R6 (spec/00_scope.md), with taking an exception (`raise`, rule R171) among them. -/

namespace Sys2Proof.Machine

/-! ### Plain writes of one part of the state -/

/-- `pc <- target` (rule R6). -/
def State.setPc (s : State) (p : Word) : State := { s with pc := p }

/-- `I <- v` (rule R6). -/
def State.setI (s : State) (v : Word) : State := { s with I := v }

/-- `DT <- v` (rule R6). -/
def State.setDT (s : State) (v : Byte) : State := { s with DT := v }

/-- `ST <- v` (rule R6). -/
def State.setST (s : State) (v : Byte) : State := { s with ST := v }

/-- Replace the general registers. -/
def State.setRegs (s : State) (V : Vector Byte 16) : State := { s with V := V }

/-- Replace the call stack. -/
def State.setStack (s : State) (st : List Word) : State := { s with stack := st }

/-- Replace the keyboard latch. -/
def State.setLatch (s : State) (k : Option (BitVec 4)) : State := { s with latch := k }

/-- Replace the run state. -/
def State.setRun (s : State) (r : RunState) : State := { s with run := r }

/-- Replace the Memory Image. -/
def State.setMem (s : State) (m : Memory) : State := { s with mem := m }

/-- Replace the pixel grid and the event queue. -/
def State.setScreen (s : State) (g : Grid) (es : List Event) : State := { s with pixels := g, events := es }

/-- Count one more draw. -/
def State.countDraw (s : State) : State := { s with draws := s.draws + 1 }

/-! ### General registers (rules R6, R11) -/

/-- `V[x]`. -/
def State.getV (s : State) (x : RegIdx) : Byte := s.V[x.val]

/-- `V[x] <- b`. -/
def State.setV (s : State) (x : RegIdx) (b : Byte) : State := s.setRegs (s.V.set x.val b)

/-- `V[k] <- b` for each byte of a list in turn, from register `k` up; a byte past register 15 has no register
(rule R144). -/
def loadFrom (V : Vector Byte 16) : Nat → List Byte → Vector Byte 16
  | _, [] => V
  | k, b :: bs => loadFrom (V.setIfInBounds k b) (k + 1) bs

/-- `V[0]` to `V[x]`, in ascending order (rules R143, R144). -/
def State.regsUpTo (s : State) (x : RegIdx) : List Byte := s.V.toList.take (x.val + 1)

/-! ### The program counter (rule R101) -/

/-- `npc = (pc + 2) mod 65536`. -/
def State.npc (s : State) : Word := s.pc + 2

/-- `pc <- npc`: every instruction that neither transfers control nor skips (rule R101). -/
def State.advance (s : State) : State := s.setPc s.npc

/-- The end of a conditional skip: `pc <- (pc + 4) mod 65536` if the predicate holds, else `pc <- npc`
(rules R101, R110). -/
def State.skipIf (s : State) (c : Bool) : State := s.setPc (if c then s.pc + 4 else s.npc)

/-! ### Taking an exception (rules R170, R171) -/

/-- `raise <Kind>(info)`: exactly `run <- Halted(<Kind>, info)`. Nothing is saved, no register changes, control goes
nowhere (rule R171). There is no return from it (rule R173). -/
def raise (k : FaultKind) (info : Nat) (s : State) : State := s.setRun (.halted k info)

/-- The numeric code of a fault kind (table T-FAULT; the spec's own numbering, D27). -/
def FaultKind.code : FaultKind → Nat
  | .invalidOpcode => 1
  | .unimplementedOpcode => 2
  | .addressOutOfBounds => 3
  | .stackUnderflow => 4
  | .reservedOperandMisuse => 5
  | .stackOverflow => 6

/-- The decode stage's failure as a raise (rules R70, R71): the info is the opcode. -/
def raiseDecode (e : DecodeError) (s : State) : State :=
  match e with
  | .invalidOpcode op => raise .invalidOpcode op.toNat s
  | .unimplementedOpcode op => raise .unimplementedOpcode op.toNat s

/-! ### Memory (rules R40 to R45) -/

/-- What an unlisted address reads as: the reset content. `FONT` at 0x000 to 0x04F (rule R48; log 5), zero from there:
`LOW_FILL` to 0x1FF (rule R49; log 6), and above it a program byte that is zero (log 7). -/
def Memory.background (a : Nat) : Byte := Config.font.getD a 0x00

/-- The canonical form: strictly rising addresses, and no entry equal to what an unlisted address reads as. -/
abbrev Memory.wf (m : Memory) : Prop :=
  m.cells.Pairwise (fun c d => c.1 < d.1) ∧ ∀ c ∈ m.cells, c.2 ≠ Memory.background c.1

/-- The content of address `a` in a list of cells. -/
def readCells (a : Nat) : List Host.Cell → Byte
  | [] => Memory.background a
  | c :: cs => if a = c.1 then c.2 else readCells a cs

/-- `mem[a]`. -/
def Memory.read (m : Memory) (a : Nat) : Byte := readCells a m.cells

/-- Put a cell in front of a list, unless it says what an unlisted address says. -/
def consCell (a : Nat) (b : Byte) (cs : List Host.Cell) : List Host.Cell :=
  if b = Memory.background a then cs else (a, b) :: cs

/-- Write address `a` in a list of cells, keeping the canonical form. -/
def writeCells (a : Nat) (b : Byte) : List Host.Cell → List Host.Cell
  | [] => consCell a b []
  | c :: cs =>
    if a < c.1 then consCell a b (c :: cs)
    else if a = c.1 then consCell a b cs
    else c :: writeCells a b cs

/-- `mem[a] <- b`. -/
def Memory.write (m : Memory) (a : Nat) (b : Byte) : Memory := ⟨writeCells a b m.cells⟩

/-- Write a list of bytes at consecutive addresses from `a` up. -/
def Memory.writeList (m : Memory) (a : Nat) : List Byte → Memory
  | [] => m
  | b :: bs => (m.write a b).writeList (a + 1) bs

/-- Read `n` bytes at consecutive addresses from `a` up. -/
def Memory.readList (m : Memory) (a : Nat) : Nat → List Byte
  | 0 => []
  | n + 1 => m.read a :: m.readList (a + 1) n

/-- The lowest of the `n` consecutive addresses from `a` up that is at or above `lim`, if any. Addresses are unbounded
integers (rule R145, D17; log 20). -/
def firstAtOrAbove (lim a : Nat) : Nat → Option Nat
  | 0 => none
  | n + 1 => if lim ≤ a then some a else firstAtOrAbove lim (a + 1) n

/-- The bounds check of rule R42 on `n` consecutive addresses from `a` up: the lowest offending address, if any. -/
def State.firstOut (s : State) (a n : Nat) : Option Nat := firstAtOrAbove s.endAddr a n

/-- `MemRead(addr, 1)` on `n` consecutive addresses (rule R43): all the bytes, or the lowest offending address. -/
def State.memRead (s : State) (a n : Nat) : Except Nat (List Byte) :=
  match s.firstOut a n with
  | some bad => .error bad
  | none => .ok (s.mem.readList a n)

/-- `MemWrite(addr, 1, v)` on consecutive addresses, all of them checked before any byte is written (rule R44): the
state with the bytes written, or the lowest offending address. -/
def State.memWrite (s : State) (a : Nat) (bs : List Byte) : Except Nat State :=
  match s.firstOut a bs.length with
  | some bad => .error bad
  | none => .ok (s.setMem (s.mem.writeList a bs))

/-- `MemRead(pc, 2)`: the big-endian opcode at `pc`, `pc + 1` (rules R43, R45), or the offending address. -/
def State.fetch (s : State) : Except Nat Word :=
  match s.firstOut s.pc.toNat 2 with
  | some bad => .error bad
  | none => .ok (opcodeOf (s.mem.read s.pc.toNat) (s.mem.read (s.pc.toNat + 1)))

/-! ### The call stack (rule R18) -/

/-- `length(stack) == STACK_DEPTH` (rule R103); never with an unbounded stack. -/
def State.stackFull (s : State) : Bool :=
  match s.cfg.stackDepth with
  | none => false
  | some d => decide (s.stack.length = d)

/-- `push(v)`: `v` becomes the top. -/
def State.push (s : State) (v : Word) : State := s.setStack (v :: s.stack)

/-! ### The display (rules R19, R20) -/

/-- `pixel(x, y)`. -/
def Grid.get (g : Grid) (x : Fin 64) (y : Fin 32) : Bool := (g[y.val])[x.val]

/-- `pixel(x, y) <- b`. -/
def Grid.put (g : Grid) (x : Fin 64) (y : Fin 32) (b : Bool) : Grid := g.set y.val ((g[y.val]).set x.val b)

/-- The grid with every pixel unset. -/
def Grid.blank : Grid := Vector.replicate 32 (Vector.replicate 64 false)

/-- `pixel(x, y)` of a state. -/
def State.pixel (s : State) (x : Fin 64) (y : Fin 32) : Bool := Grid.get s.pixels x y

end Sys2Proof.Machine
end

