-- ==== Sys2Proof/Machine/Cycle.lean ====
section
/-! DEFINITION. The first two stages of the cycle, fetch and decode, in their order (rules R100, R174 of
spec/40_cycle_and_control_transfer.md and spec/60_exceptions.md), and placing an instruction where the next cycle
fetches it. -/

namespace Sys2Proof.Machine

/-- What the first two stages give: the instruction to execute, or the state a failing stage leaves (`Halted`, nothing
else changed). An unfetchable word is never decoded (rule R174). -/
inductive Fetched
  | run (i : Instr)
  | stop (t : State)
  deriving DecidableEq, Repr

/-- Fetch, then decode (rule R100). -/
def fetchDecode (s : State) : Fetched :=
  match s.fetch with
  | .error bad => .stop (raise .addressOutOfBounds bad s)
  | .ok op =>
    match decode op with
    | .error e => .stop (raiseDecode e s)
    | .ok i => .run i

/-- `s` with an instruction's opcode loaded at `pc`, `END` covering it, and the engine running: what the loader does
for a program (rules R55, R190; log 9). -/
def State.placeAtPc (s : State) (op : Word) : State :=
  { s with
    mem := s.mem.writeList s.pc.toNat [hiByte op, loByte op]
    endAddr := max s.endAddr (s.pc.toNat + 2)
    run := .running }

end Sys2Proof.Machine
end

