-- ==== Sys2Proof/Machine/Flags.lean ====
section
/-! DEFINITION. The flag computations: the value `VF` takes as a side effect (rule R12 of spec/10_state.md), and the
write order of flag and destination (rule R121 of spec/42_register_set_and_alu.md). -/

namespace Sys2Proof.Machine

/-- A flag as the byte `VF` holds: 1 or 0 (rule R12). -/
def flagByte (c : Bool) : Byte := if c then 1 else 0

/-- The carry of `ADD Vx, Vy`: 1 iff the exact sum exceeds 255 (rule R128). -/
def carryFlag (a b : Byte) : Byte := flagByte (decide (255 < a.toNat + b.toNat))

/-- The difference of `SUB Vx, Vy` in 16 bits, wrapped (rule R129). -/
def wideDiff (a b : Byte) : Word := a.setWidth 16 - b.setWidth 16

/-- The borrow of `SUB Vx, Vy`: 1 iff the high byte of the 16-bit wrapped difference is not zero (rule R129). -/
def borrowFlag (a b : Byte) : Byte := flagByte (decide (hiByte (wideDiff a b) ≠ 0))

/-- The bit `SHR` shifts out: the low bit of the source before the shift (rule R130). -/
def shiftedOutFlag (b : Byte) : Byte := flagByte (b.getLsbD 0)

/-- The collision flag of `DRW` (rule R151). -/
def collisionFlag (hit : Bool) : Byte := flagByte hit

/-- `VF <- flag`, then `V[x] <- result` (rule R121, D13): with `x = 15` the result stays (log 16). -/
def State.setFlagThen (s : State) (flag : Byte) (x : RegIdx) (result : Byte) : State :=
  (s.setV VF flag).setV x result

end Sys2Proof.Machine
end

