-- ==== Sys2Proof/Machine/Operands.lean ====
section
/-! DEFINITION. The operand forms: the Operand References of rule R15 (spec/10_state.md), the second operand of a
conditional skip (rule R110), the effective address of a memory instruction (rule R145), the zero-extension of `nnn`
(rule R72) and the source of the shift (rule R130). -/

namespace Sys2Proof.Machine

/-- An Operand Reference: a closed set of four variants (rule R15). -/
inductive OperandRef
  | v (x : RegIdx)
  | key
  | delay
  | sound
  deriving DecidableEq, Repr

/-- The references that `set` may write: all but the keyboard latch. `set(Key, v)` never happens (rule R15, C9), so it
has no meaning to give. -/
def OperandRef.storage : OperandRef → Bool
  | .v _ => true
  | .key => false
  | .delay => true
  | .sound => true

/-- The consuming read of the latch, `get(Key)`: the code zero-extended, or `NOKEY` when the latch is empty; the latch
is empty afterwards (rules R15, R21; log 1, log 26). -/
def State.takeKey (s : State) : Byte × State :=
  (match s.latch with | some k => k.setWidth 8 | none => Config.noKey, s.setLatch none)

/-- `get(ref)`: the 8-bit value, and the state after the read (only `Key` changes it; rule R15). -/
def OperandRef.get (r : OperandRef) (s : State) : Byte × State :=
  match r with
  | .v x => (s.getV x, s)
  | .key => s.takeKey
  | .delay => (s.DT, s)
  | .sound => (s.ST, s)

/-- `set(ref, v)` (rule R15). -/
def OperandRef.set (r : OperandRef) (b : Byte) (s : State) (h : r.storage = true) : State :=
  match r, h with
  | .v x, _ => s.setV x b
  | .delay, _ => s.setDT b
  | .sound, _ => s.setST b

/-- The second operand of a conditional skip (rule R110): an immediate or an Operand Reference. -/
inductive SkipOperand
  | imm (nn : Byte)
  | ref (r : OperandRef)
  deriving DecidableEq, Repr

/-- `value(b)` (rule R110), and the state after it. -/
def SkipOperand.value (o : SkipOperand) (s : State) : Byte × State :=
  match o with
  | .imm nn => (nn, s)
  | .ref r => r.get s

/-- `Set(dest, src)` is `set(dest, get(src))`, then `pc <- npc` (rule R164). -/
def moveRef (dest src : OperandRef) (s : State) (h : dest.storage = true) : State :=
  (dest.set (src.get s).1 (src.get s).2 h).advance

/-- `SkipIfEqual(a, b)` (rule R110). -/
def skipIfEqual (a : OperandRef) (b : SkipOperand) (s : State) : State :=
  (b.value (a.get s).2).2.skipIf (decide ((a.get s).1 = (b.value (a.get s).2).1))

/-- `SkipIfNotEqual(a, b)` (rule R110). -/
def skipIfNotEqual (a : OperandRef) (b : SkipOperand) (s : State) : State :=
  (b.value (a.get s).2).2.skipIf (decide ((a.get s).1 ≠ (b.value (a.get s).2).1))

/-- `zext_16(nnn)` (rule R72). -/
def zextAddr (nnn : BitVec 12) : Word := nnn.setWidth 16

/-- The base of the one data addressing mode, register `I` as an unbounded integer; byte `k` of an access is at
`I + k`, never reduced before the bounds check (rule R145, D17; log 20). -/
def State.base (s : State) : Nat := s.I.toNat

/-- The source of `SHR Vx, Vy`: `V[y]` or `V[x]`, as `SHIFT_SRC` says (rule R130, D15; log 18). -/
def State.shiftSource (s : State) (x y : RegIdx) : Byte :=
  match s.cfg.shiftSrc with
  | .vy => s.getV y
  | .vx => s.getV x

end Sys2Proof.Machine
end

