-- ==== Sys2Proof/Machine/Alu.lean ====
section
/-! DEFINITION. Register set and arithmetic (spec/42_register_set_and_alu.md). All arithmetic is unsigned on 8 bits
(rule R120); every instruction here ends with `pc <- npc`, and none raises. -/

namespace Sys2Proof.Machine

/-- `LD Vx, nn` (rule R122). -/
def execLdVN (x : RegIdx) (nn : Byte) (s : State) : Host.Outcome State Fault Refusal :=
  .next (s.setV x nn).advance

/-- `ADD Vx, nn` (rule R123): the sum modulo 256, no flag. -/
def execAddVN (x : RegIdx) (nn : Byte) (s : State) : Host.Outcome State Fault Refusal :=
  .next (s.setV x (s.getV x + nn)).advance

/-- `RND Vx, nn` (rule R132): a fresh draw and the mask (log 2). -/
def execRndVN (x : RegIdx) (nn : Byte) (s : State) : Host.Outcome State Fault Refusal :=
  .next (s.countDraw.setV x (Config.rnd s.draws &&& nn)).advance

/-- `LD Vx, Vy` (rule R124): `Set(V(x), V(y))`. -/
def execLdVV (x y : RegIdx) (s : State) : Host.Outcome State Fault Refusal :=
  .next (moveRef (.v x) (.v y) s rfl)

/-- `OR Vx, Vy` (rule R125): `VF` is not modified (D14; log 17). -/
def execOrVV (x y : RegIdx) (s : State) : Host.Outcome State Fault Refusal :=
  .next (s.setV x (s.getV x ||| s.getV y)).advance

/-- `AND Vx, Vy` (rule R126): `VF` is not modified (D14; log 17). -/
def execAndVV (x y : RegIdx) (s : State) : Host.Outcome State Fault Refusal :=
  .next (s.setV x (s.getV x &&& s.getV y)).advance

/-- `XOR Vx, Vy` (rule R127): `VF` is not modified (D14; log 17). -/
def execXorVV (x y : RegIdx) (s : State) : Host.Outcome State Fault Refusal :=
  .next (s.setV x (s.getV x ^^^ s.getV y)).advance

/-- `ADD Vx, Vy` (rule R128): `VF <- carry`, then `V[x] <- sum mod 256`. -/
def execAddVV (x y : RegIdx) (s : State) : Host.Outcome State Fault Refusal :=
  .next (s.setFlagThen (carryFlag (s.getV x) (s.getV y)) x (s.getV x + s.getV y)).advance

/-- `SUB Vx, Vy` (rule R129): `VF <- borrow`, then `V[x] <- d[7:0]`. -/
def execSubVV (x y : RegIdx) (s : State) : Host.Outcome State Fault Refusal :=
  .next (s.setFlagThen (borrowFlag (s.getV x) (s.getV y)) x (loByte (wideDiff (s.getV x) (s.getV y)))).advance

/-- `SHR Vx, Vy` (rule R130): `VF <- s[0]`, then `V[x] <- s >> 1`, for the source `s` that `SHIFT_SRC` selects. -/
def execShrVV (x y : RegIdx) (s : State) : Host.Outcome State Fault Refusal :=
  .next (s.setFlagThen (shiftedOutFlag (s.shiftSource x y)) x (s.shiftSource x y >>> 1)).advance

/-- `SUBN Vx, Vy` (rule R131): `(V[y] - V[x]) mod 256`, no flag (D16; log 19). -/
def execSubnVV (x y : RegIdx) (s : State) : Host.Outcome State Fault Refusal :=
  .next (s.setV x (s.getV y - s.getV x)).advance

end Sys2Proof.Machine
end

