-- ==== Sys2Proof/Machine/Control.lean ====
section
/-! DEFINITION. Control transfer: `JP`, `CALL`, `RET` (spec/40_cycle_and_control_transfer.md). The opcode a fault records
is the instruction's own encoding, which is unique for these (log 34). -/

namespace Sys2Proof.Machine

/-- `JP nnn` (rule R102). The target is not checked here. -/
def execJp (nnn : BitVec 12) (s : State) : Host.Outcome State Fault Refusal :=
  .next (s.setPc (zextAddr nnn))

/-- `CALL nnn` (rule R103): `StackOverflow(op)` on a full stack (D12; log 15), else push `npc` and jump. -/
def execCall (nnn : BitVec 12) (s : State) : Host.Outcome State Fault Refusal :=
  .next (if s.stackFull then raise .stackOverflow (encode (.call nnn)).toNat s
    else (s.push s.npc).setPc (zextAddr nnn))

/-- `RET` (rule R104): `StackUnderflow(op)` on an empty stack, else pop into `pc`. -/
def execRet (s : State) : Host.Outcome State Fault Refusal :=
  .next (match s.stack with
    | [] => raise .stackUnderflow (encode .ret).toNat s
    | top :: rest => (s.setStack rest).setPc top)

end Sys2Proof.Machine
end

