-- ==== Sys2Proof/Machine/Display.lean ====
section
/-! DEFINITION. The display instructions (spec/44_display.md): `CLS`, `DRW`, and the sprite compositor between them. -/

namespace Sys2Proof.Machine

/-- `CLS` (rule R150): every pixel unset, one `ClearAll` event, `VF` unaffected. -/
def execCls (s : State) : Host.Outcome State Fault Refusal :=
  .next (s.setScreen Grid.blank (s.events ++ [.clearAll])).advance

/-- What the compositor works on: the grid, the event queue, and whether a set pixel went unset so far. -/
structure Canvas where
  pixels : Grid
  events : List Event
  hit : Bool
  deriving DecidableEq, Repr

/-- One XOR toggle (rule R151): flip the pixel, emit its new state, note a collision. -/
def Canvas.toggle (c : Canvas) (p : Fin 64 × Fin 32) : Canvas where
  pixels := Grid.put c.pixels p.1 p.2 (!(Grid.get c.pixels p.1 p.2))
  events := c.events ++ [.pixel p.1 p.2 (!(Grid.get c.pixels p.1 p.2))]
  hit := c.hit || Grid.get c.pixels p.1 p.2

/-- The pixels one sprite row toggles: bit `q` of the row goes to column `(x0 + (7 - q)) mod 64` of row `y mod 32`,
`q` ascending (rule R151; order D29, log 30). -/
def rowTargets (x0 y : Nat) (row : Byte) : List (Fin 64 × Fin 32) :=
  (List.range 8).filterMap fun q =>
    if row.getLsbD q then some (Fin.ofNat 64 (x0 + (7 - q)), Fin.ofNat 32 y) else none

/-- The pixels a sprite toggles, rows ascending from row `y` (rule R151). -/
def spriteTargets (x0 : Nat) : Nat → List Byte → List (Fin 64 × Fin 32)
  | _, [] => []
  | y, row :: rows => rowTargets x0 y row ++ spriteTargets x0 (y + 1) rows

/-- Composite a sprite: toggle its pixels in order. -/
def Canvas.draw (c : Canvas) (ps : List (Fin 64 × Fin 32)) : Canvas := ps.foldl Canvas.toggle c

/-- The canvas of a state before a draw. -/
def State.canvas (s : State) : Canvas := ⟨s.pixels, s.events, false⟩

/-- A finished draw: the grid and the events, then `VF <- collision`, then `pc <- npc` (rule R151). -/
def State.finishDraw (s : State) (c : Canvas) : State :=
  ((s.setScreen c.pixels c.events).setV VF (collisionFlag c.hit)).advance

/-- `DRW Vx, Vy, n` (rule R151): all rows are read and checked first; with `n = 0` nothing is read (D30; log 31). -/
def execDrw (x y : RegIdx) (n : Nat) (s : State) : Host.Outcome State Fault Refusal :=
  .next (match s.memRead s.base n with
    | .error bad => raise .addressOutOfBounds bad s
    | .ok rows => s.finishDraw (s.canvas.draw (spriteTargets (s.getV x).toNat (s.getV y).toNat rows)))

end Sys2Proof.Machine
end

