-- ==== Sys2Proof/Machine/IndexMem.lean ====
section
/-! DEFINITION. The index register and the memory instructions (spec/43_index_and_memory.md). Every bounds check precedes
the first write (rule R172), and no memory instruction changes `I` (rule R145). -/

namespace Sys2Proof.Machine

/-- `LD I, nnn` (rule R140). -/
def execLdIN (nnn : BitVec 12) (s : State) : Host.Outcome State Fault Refusal :=
  .next (s.setI (zextAddr nnn)).advance

/-- `ADD I, Vx` (rule R141): `x = 15` raises `ReservedOperandMisuse(op)` (D18; log 21); else the sum modulo 65536, no
flag (D17; log 20). -/
def execAddIV (x : RegIdx) (s : State) : Host.Outcome State Fault Refusal :=
  .next (if x = VF then raise .reservedOperandMisuse (encode (.addIV x)).toNat s
    else (s.setI (s.I + (s.getV x).setWidth 16)).advance)

/-- The decimal digits of a byte, hundreds first (rule R142, D20; log 23). -/
def bcdDigits (v : Byte) : List Byte := [v / 100, (v / 10) % 10, v % 10]

/-- The end of a storing instruction: the bytes are stored from `I` up, or `AddressOutOfBounds` is raised at the lowest
offending address and nothing is written (rules R44, R142, R143). -/
def storeAtI (bs : List Byte) (s : State) : State :=
  match s.memWrite s.base bs with
  | .error bad => raise .addressOutOfBounds bad s
  | .ok t => t.advance

/-- `BCD Vx` (rule R142). -/
def execBcd (x : RegIdx) (s : State) : Host.Outcome State Fault Refusal :=
  .next (storeAtI (bcdDigits (s.getV x)) s)

/-- `LD [I], Vx` (rule R143): `V[0]` to `V[x]` at `I` to `I + x` (D19; log 22). -/
def execDump (x : RegIdx) (s : State) : Host.Outcome State Fault Refusal :=
  .next (storeAtI (s.regsUpTo x) s)

/-- `LD Vx, [I]` (rule R144): all bytes are read before any register is written (D19; log 22). -/
def execLoad (x : RegIdx) (s : State) : Host.Outcome State Fault Refusal :=
  .next (match s.memRead s.base (x.val + 1) with
    | .error bad => raise .addressOutOfBounds bad s
    | .ok bs => (s.setRegs (loadFrom s.V 0 bs)).advance)

end Sys2Proof.Machine
end

