-- ==== Sys2Proof/Machine/Skip.lean ====
section
/-! DEFINITION. The six conditional skips (spec/41_conditional_skip.md), all instances of `SkipIfEqual` and
`SkipIfNotEqual` (rule R110). -/

namespace Sys2Proof.Machine

/-- `SE Vx, nn` (rule R111). -/
def execSeVN (x : RegIdx) (nn : Byte) (s : State) : Host.Outcome State Fault Refusal :=
  .next (skipIfEqual (.v x) (.imm nn) s)

/-- `SNE Vx, nn` (rule R112). -/
def execSneVN (x : RegIdx) (nn : Byte) (s : State) : Host.Outcome State Fault Refusal :=
  .next (skipIfNotEqual (.v x) (.imm nn) s)

/-- `SE Vx, Vy` (rule R113). -/
def execSeVV (x y : RegIdx) (s : State) : Host.Outcome State Fault Refusal :=
  .next (skipIfEqual (.v x) (.ref (.v y)) s)

/-- `SNE Vx, Vy` (rule R114). -/
def execSneVV (x y : RegIdx) (s : State) : Host.Outcome State Fault Refusal :=
  .next (skipIfNotEqual (.v x) (.ref (.v y)) s)

/-- `SKP Vx` (rule R115): the latch is emptied whether or not it matched (D22; log 26). -/
def execSkp (x : RegIdx) (s : State) : Host.Outcome State Fault Refusal :=
  .next (skipIfEqual (.v x) (.ref .key) s)

/-- `SKNP Vx` (rule R116). -/
def execSknp (x : RegIdx) (s : State) : Host.Outcome State Fault Refusal :=
  .next (skipIfNotEqual (.v x) (.ref .key) s)

end Sys2Proof.Machine
end

