-- ==== Sys2Proof/Machine/TimerKey.lean ====
section
/-! DEFINITION. Timer and keyboard-latch instructions (spec/45_timers_and_key.md), all of the kind `Set(dest, src)`
(rule R164). -/

namespace Sys2Proof.Machine

/-- `LD Vx, DT` (rule R160). -/
def execLdVDT (x : RegIdx) (s : State) : Host.Outcome State Fault Refusal :=
  .next (moveRef (.v x) .delay s rfl)

/-- `LD Vx, K` (rule R163): the consuming read; it does not wait (D23; log 26). -/
def execLdVK (x : RegIdx) (s : State) : Host.Outcome State Fault Refusal :=
  .next (moveRef (.v x) .key s rfl)

/-- `LD DT, Vx` (rule R161). -/
def execLdDTV (x : RegIdx) (s : State) : Host.Outcome State Fault Refusal :=
  .next (moveRef .delay (.v x) s rfl)

/-- `LD ST, Vx` (rule R162). -/
def execLdSTV (x : RegIdx) (s : State) : Host.Outcome State Fault Refusal :=
  .next (moveRef .sound (.v x) s rfl)

end Sys2Proof.Machine
end

