-- ==== Sys2Proof/Machine/Dispatch.lean ====
section
/-! DEFINITION. The execute stage: one arm per instruction, each one call of its meaning. -/

namespace Sys2Proof.Machine

/-- `execute(ins)` (rule R100 of spec/40_cycle_and_control_transfer.md). -/
def exec (i : Instr) (s : State) : Host.Outcome State Fault Refusal :=
  match i with
  | .cls => Sys2Proof.Machine.execCls s
  | .ret => Sys2Proof.Machine.execRet s
  | .jp nnn => Sys2Proof.Machine.execJp nnn s
  | .call nnn => Sys2Proof.Machine.execCall nnn s
  | .seVN x nn => Sys2Proof.Machine.execSeVN x nn s
  | .sneVN x nn => Sys2Proof.Machine.execSneVN x nn s
  | .seVV x y => Sys2Proof.Machine.execSeVV x y s
  | .ldVN x nn => Sys2Proof.Machine.execLdVN x nn s
  | .addVN x nn => Sys2Proof.Machine.execAddVN x nn s
  | .ldVV x y => Sys2Proof.Machine.execLdVV x y s
  | .orVV x y => Sys2Proof.Machine.execOrVV x y s
  | .andVV x y => Sys2Proof.Machine.execAndVV x y s
  | .xorVV x y => Sys2Proof.Machine.execXorVV x y s
  | .addVV x y => Sys2Proof.Machine.execAddVV x y s
  | .subVV x y => Sys2Proof.Machine.execSubVV x y s
  | .shrVV x y => Sys2Proof.Machine.execShrVV x y s
  | .subnVV x y => Sys2Proof.Machine.execSubnVV x y s
  | .sneVV x y => Sys2Proof.Machine.execSneVV x y s
  | .ldIN nnn => Sys2Proof.Machine.execLdIN nnn s
  | .rndVN x nn => Sys2Proof.Machine.execRndVN x nn s
  | .drw x y n => Sys2Proof.Machine.execDrw x y n s
  | .skp x => Sys2Proof.Machine.execSkp x s
  | .sknp x => Sys2Proof.Machine.execSknp x s
  | .ldVDT x => Sys2Proof.Machine.execLdVDT x s
  | .ldVK x => Sys2Proof.Machine.execLdVK x s
  | .ldDTV x => Sys2Proof.Machine.execLdDTV x s
  | .ldSTV x => Sys2Proof.Machine.execLdSTV x s
  | .addIV x => Sys2Proof.Machine.execAddIV x s
  | .bcd x => Sys2Proof.Machine.execBcd x s
  | .dump x => Sys2Proof.Machine.execDump x s
  | .load x => Sys2Proof.Machine.execLoad x s

end Sys2Proof.Machine
end

