-- ==== Sys2Proof/Machine/Step.lean ====
section
/-! DEFINITION. The step: one cycle, the host action `step` (rule R100 of spec/40_cycle_and_control_transfer.md). -/

namespace Sys2Proof.Machine

/-- One cycle: nothing on a halted engine (rule R173), else fetch, decode, execute (rule R100). -/
def step (s : State) : Host.Outcome State Fault Refusal :=
  match s.run with
  | .halted _ _ => .next s
  | .running =>
    match fetchDecode s with
    | .stop t => .next t
    | .run i => exec i s

/-- `s` with the instruction whose bits are `w` stored at `pc`, `END` covering it and the engine running, so that the
next step fetches and runs it (log 9). At `pc = 0xFFFF` no legal `END` covers two bytes; `END` then passes 65536. -/
def State.withFetchWord (s : State) (nbits w : Nat) : State := s.placeAtPc (tableOpcode nbits w)

end Sys2Proof.Machine
end

