-- ==== Sys2Proof/Machine/HostActions.lean ====
section
/-! DEFINITION. The host's side of the block: the five atomic actions of table T-HOST (rule R182 of
spec/60_exceptions.md). Any order of them is a run; a claim about every state covers every interleaving (log 11). -/

namespace Sys2Proof.Machine

/-- A timer's decrement: it stops at zero (rule R178). -/
def tickTimer (v : Byte) : Byte := if v = 0 then 0 else v - 1

/-- `tick()` (rule R178), also on a halted engine (D32). -/
def State.tick (s : State) : State := { s with DT := tickTimer s.DT, ST := tickTimer s.ST }

/-- `push_key(k)`, `none` for "no key" (rule R183); a code above 15 has no encoding (D37; log 33). -/
def State.pushKey (s : State) (k : Option (BitVec 4)) : State := s.setLatch k

/-- `drain()` (rule R184): what the host gets. -/
def State.drained (s : State) : List Event := s.events

/-- `drain()` (rule R184): the state after it. -/
def State.drain (s : State) : State := { s with events := [] }

/-- The launch parameters of a reset and the configuration of the run (rules R4, R190). -/
structure Launch where
  config : Config := {}
  font : List Byte := Config.font
  lowFill : List Byte := Config.lowFill
  program : List Byte := []
  deriving DecidableEq, Repr

/-- `END`: 0x200 plus the length of the program image (rules R4, R55). -/
def Launch.endAddr (l : Launch) : Nat := 0x200 + l.program.length

/-- The host's duties at launch (rules R4, R185): 80 font bytes, 432 fill bytes, a configuration in range, and an image
that fits the store. -/
def Launch.legal (l : Launch) : Bool :=
  decide (l.font.length = 80) && decide (l.lowFill.length = 432) && l.config.legal &&
    decide (l.endAddr ≤ l.config.memSize)

/-- The Memory Image at launch (table T-MAP, rule R41): `FONT` at 0x000, `LOW_FILL` at 0x050, `PROGRAM` at 0x200. -/
def Launch.image (l : Launch) : Memory := (Memory.mk []).writeList 0 (l.font ++ l.lowFill ++ l.program)

/-- A machine as a launch constructs it (rule R190): every piece of state at its reset value (table T-RESET). -/
def State.launch (l : Launch) : State :=
  { State.reset with mem := l.image, endAddr := l.endAddr, cfg := l.config }

/-- The host's `reset` (rule R190). The one kind of reset; it takes nothing from the state it replaces (D25), but that
the model's draw counter goes on, so that no draw of an earlier run comes again (log 2). -/
def State.relaunch (s : State) (l : Launch) : State := { State.launch l with draws := s.draws }

/-- A host action (table T-HOST, rule R182). -/
inductive HostAction
  | reset (l : Launch)
  | step
  | tick
  | pushKey (k : Option (BitVec 4))
  | drain
  deriving DecidableEq, Repr

/-- What an action returns to the host (table T-HOST). -/
inductive HostResult
  | nothing
  | ran (r : RunState)
  | drained (es : List Event)
  deriving DecidableEq, Repr

/-- One host action: the state after it and its result (table T-HOST). -/
def perform (a : HostAction) (s : State) : Host.Outcome (State × HostResult) Fault Refusal :=
  match a with
  | .reset l => .next (s.relaunch l, .nothing)
  | .tick => .next (s.tick, .nothing)
  | .pushKey k => .next (s.pushKey k, .nothing)
  | .drain => .next (s.drain, .drained s.drained)
  | .step =>
    match step s with
    | .next t => .next (t, .ran t.run)
    | .fault r => .fault r
    | .refused r => .refused r

/-- A sequence of host actions: the last state and the results, in order. -/
def performAll : List HostAction → State → Host.Outcome (State × List HostResult) Fault Refusal
  | [], s => .next (s, [])
  | a :: rest, s =>
    match perform a s with
    | .fault r => .fault r
    | .refused r => .refused r
    | .next (t, r) =>
      match performAll rest t with
      | .next (u, rs) => .next (u, r :: rs)
      | .fault e => .fault e
      | .refused e => .refused e

/-- The listing of the program (rule R78): address, opcode and decoded instruction at 0x200, 0x202, ... while both bytes
lie below `END`. It runs nothing. -/
def State.listing (s : State) : List (Nat × Word × Except DecodeError Instr) :=
  (List.range ((s.endAddr - 0x200) / 2)).map fun k =>
    (0x200 + 2 * k, opcodeOf (s.mem.read (0x200 + 2 * k)) (s.mem.read (0x201 + 2 * k)),
      decodeBytes (s.mem.read (0x200 + 2 * k)) (s.mem.read (0x201 + 2 * k)))

/-- A consumer's surface after one event (rule R152): `Pixel(x, y, s)` sets the pixel, `ClearAll` unsets all. -/
def Event.apply (e : Event) (g : Grid) : Grid :=
  match e with
  | .pixel x y on => Grid.put g x y on
  | .clearAll => Grid.blank

/-- A consumer's surface after a sequence of events, consumed in order (rule R152). -/
def replay (es : List Event) (g : Grid) : Grid := es.foldl (fun g e => e.apply g) g

end Sys2Proof.Machine
end

