-- ==== Sys2Proof/Safety.lean ====
section
/-! DEFINITION. What counts as a safe run, the invariant of the machine, and the words statements use: which part of
the state an instruction may write. -/

namespace Sys2Proof.Machine

/-- A good state: the engine is running. Every kind of table T-FAULT leaves it (rule R173: the faulted state is never a
good final state). -/
def State.good (s : State) : Prop := s.run = .running

/-- A safe run of `k` cycles: it reaches a next state each time, and the engine is running before and after each. -/
def SafeFor : Nat → State → Prop
  | 0, s => s.good
  | k + 1, s => s.good ∧ ∃ t, step s = .next t ∧ SafeFor k t

/-- The stack holds at most `STACK_DEPTH` entries (rules R10, R18). -/
def State.stackFits (s : State) : Prop := ∀ d, s.cfg.stackDepth = some d → s.stack.length ≤ d

/-- `0x200 ≤ END ≤ MEM_SIZE`, and the configuration is in the ranges of table T-PARAM (rules R4, R185). -/
def State.launchLegal (s : State) : Prop :=
  0x200 ≤ s.endAddr ∧ s.endAddr ≤ s.cfg.memSize ∧ s.cfg.legal = true

/-- No cell at or above `END` differs from what it read as at reset: the engine never writes one (rule R42). -/
def State.aboveEndUntouched (s : State) : Prop := ∀ a, s.endAddr ≤ a → s.mem.read a = Memory.background a

/-- The invariant of the machine. -/
structure State.Inv (s : State) : Prop where
  memory : s.mem.wf
  stack : s.stackFits
  launch : s.launchLegal
  above : s.aboveEndUntouched

/-- A part of the state other than the general registers and `pc`. -/
inductive Part
  | DT | ST | I | stack | run | pixels | events | latch | memory | parameters | draws
  deriving DecidableEq, Repr

/-- `s` and `t` agree on a part. For memory: every byte reads the same. -/
def Part.same (p : Part) (s t : State) : Prop :=
  match p with
  | .DT => t.DT = s.DT
  | .ST => t.ST = s.ST
  | .I => t.I = s.I
  | .stack => t.stack = s.stack
  | .run => t.run = s.run
  | .pixels => t.pixels = s.pixels
  | .events => t.events = s.events
  | .latch => t.latch = s.latch
  | .memory => ∀ a, t.mem.read a = s.mem.read a
  | .parameters => t.endAddr = s.endAddr ∧ t.cfg = s.cfg
  | .draws => t.draws = s.draws

/-- From `s` to `t` every general register outside `regs` and every part outside `parts` is unchanged; `pc` may
change. -/
def Frame (regs : List RegIdx) (parts : List Part) (s t : State) : Prop :=
  (∀ r, r ∉ regs → t.getV r = s.getV r) ∧ ∀ p, p ∉ parts → p.same s t

/-- The general registers an instruction may write: its destination and, for the four flag writers, `VF` (rule R12). -/
def regsWritten : Instr → List RegIdx
  | .ldVN x _ | .addVN x _ | .rndVN x _ | .ldVV x _ | .orVV x _ | .andVV x _ | .xorVV x _ | .subnVV x _
  | .ldVDT x | .ldVK x => [x]
  | .addVV x _ | .subVV x _ | .shrVV x _ => [x, VF]
  | .drw _ _ _ => [VF]
  | .load x => (List.finRange 16).filter (fun r => decide (r ≤ x))
  | .cls | .ret | .jp _ | .call _ | .seVN _ _ | .sneVN _ _ | .seVV _ _ | .sneVV _ _ | .ldIN _ | .skp _ | .sknp _
  | .ldDTV _ | .ldSTV _ | .addIV _ | .bcd _ | .dump _ => []

/-- The other parts an instruction may write when it completes (rules R13 to R21). -/
def partsWritten : Instr → List Part
  | .cls => [.pixels, .events]
  | .drw _ _ _ => [.pixels, .events]
  | .ret => [.stack]
  | .call _ => [.stack]
  | .skp _ | .sknp _ | .ldVK _ => [.latch]
  | .ldDTV _ => [.DT]
  | .ldSTV _ => [.ST]
  | .ldIN _ | .addIV _ => [.I]
  | .bcd _ | .dump _ => [.memory]
  | .rndVN _ _ => [.draws]
  | .jp _ | .seVN _ _ | .sneVN _ _ | .seVV _ _ | .sneVV _ _ | .ldVN _ _ | .addVN _ _ | .ldVV _ _ | .orVV _ _
  | .andVV _ _ | .xorVV _ _ | .addVV _ _ | .subVV _ _ | .shrVV _ _ | .subnVV _ _ | .ldVDT _ | .load _ => []

/-- The byte a consuming read of the latch gives (rule R15): the code zero-extended, or `NOKEY`. -/
def latchByte (s : State) : Byte :=
  match s.latch with
  | some k => k.setWidth 8
  | none => Config.noKey

/-- The sprite of `DRW Vx, Vy, n` has a set bit whose target is column `a`, row `b` (rule R151): bit `q` of row `p`,
read from `I + p`, goes to column `(V[x] + (7 - q)) mod 64` of row `(V[y] + p) mod 32`. -/
def spriteCovers (s : State) (x y : RegIdx) (n : Nat) (a : Fin 64) (b : Fin 32) : Prop :=
  ∃ p q, p < n ∧ q < 8 ∧ (s.mem.read (s.I.toNat + p)).getLsbD q = true ∧
    a.val = ((s.getV x).toNat + (7 - q)) % 64 ∧ b.val = ((s.getV y).toNat + p) % 32

/-- The byte at `a` once the bytes `bs` are stored from `I` up (rules R44, R145): the stored byte inside them, the old
byte outside. -/
def overlaid (s : State) (bs : List Byte) (a : Nat) : Byte :=
  if s.I.toNat ≤ a then bs.getD (a - s.I.toNat) (s.mem.read a) else s.mem.read a

/-- The state with what no instruction reads blanked: the event queue and the sound timer (rules R20, R162). -/
def blankUnread (s : State) : State := { s with events := [], ST := 0 }

/-- Everything the drains of a run returned, in order (rule R184). -/
def drainedEvents : List HostResult → List Event
  | [] => []
  | .drained es :: rs => es ++ drainedEvents rs
  | .nothing :: rs => drainedEvents rs
  | .ran _ :: rs => drainedEvents rs

/-- A host action that is no reset. -/
def HostAction.keepsRun : HostAction → Bool
  | .reset _ => false
  | .step => true
  | .tick => true
  | .pushKey _ => true
  | .drain => true

end Sys2Proof.Machine
end

