-- ==== Sys2Proof/Certificates/Slice0/Obligations.lean ====
section
/-! DEFINITION. The statements for the provers, one `def Obligations.<Name> : Prop` each, in the order of
OBLIGATIONS.json. Each docstring names the rule of spec/ it formalises and, where it rests on a decision of the spec
(`D<n>`) or on general knowledge the spec marks so (`GK`), says so with the log entry. Additions on `pc` are in 16 bits
throughout (D6, log 12). -/

open Sys2Proof Sys2Proof.Machine

/-! ### Encoding -/

/-- R61, whole: the fields of an opcode are what the masks and shifts give, and they overlap as the rule says. -/
def Obligations.FieldsMatchTheMasks : Prop :=
  ∀ op : Word,
    (xField op).val = ((op &&& 0x0F00) >>> 8).toNat ∧ (yField op).val = ((op &&& 0x00F0) >>> 4).toNat ∧
    (nField op).toNat = (op &&& 0x000F).toNat ∧ (nnField op).toNat = (op &&& 0x00FF).toNat ∧
    (nnnField op).toNat = (op &&& 0x0FFF).toNat ∧ (famField op).toNat = (op >>> 12).toNat ∧
    (nnField op).toNat = 16 * (yField op).val + (nField op).toNat ∧
    (nnnField op).toNat = 256 * (xField op).val + 16 * (yField op).val + (nField op).toNat

/-- R64, whole: the two literals are the opcodes of `CLS` and `RET`, and match on all 16 bits. -/
def Obligations.LiteralsMatchOnAllBits : Prop :=
  ∀ op : Word, (decode op = .ok .cls ↔ op = 0x00E0) ∧ (decode op = .ok .ret ↔ op = 0x00EE)

/-- E1 and §4.1 of the document: the four opcodes the document gives, with their bits written out. -/
def Obligations.DocumentedOpcodesDecode : Prop :=
  decode 0b0000000011100000#16 = .ok .cls ∧ decode 0b0000000011101110#16 = .ok .ret ∧
  decode 0b0110_1010_00111011#16 = .ok (.ldVN 10 0x3B) ∧ decode 0b1000_1010_1011_0100#16 = .ok (.addVV 10 11)

/-- Decode and encode agree: every well-formed instruction, every operand value (R63, R74; numbers: GK-1, D2, log 24). -/
def Obligations.DecodeOfEncodeGivesTheInstruction : Prop :=
  ∀ i : Instr, i.wf = true → decode (encode i) = .ok i

/-- The other direction: what decodes is well formed and encodes back to its opcode, but for the low nibble that
families 5 and 9 ignore (R69, D5, log 25). -/
def Obligations.EncodeOfDecodeGivesTheOpcode : Prop :=
  ∀ (op : Word) (i : Instr), decode op = .ok i →
    i.wf = true ∧ encode i = if famField op = 0x5 ∨ famField op = 0x9 then op &&& 0xFFF0 else op

/-- R70 and R71: exactly which opcodes each decode fault rejects, and that the fault carries the opcode (the closed
instruction list and the sub-dispatch keys are D3 and D4, log 24). -/
def Obligations.RejectedOpcodesAreTheListedOnes : Prop :=
  ∀ op : Word,
    (decode op = .error (.invalidOpcode op) ↔ famField op = 0xB) ∧
    (decode op = .error (.unimplementedOpcode op) ↔
      famField op = 0x0 ∧ op ≠ 0x00E0 ∧ op ≠ 0x00EE ∨
      famField op = 0x8 ∧ 8 ≤ (nField op).toNat ∨
      famField op = 0xE ∧ nnField op ≠ 0x9E ∧ nnField op ≠ 0xA1 ∨
      famField op = 0xF ∧ nnField op ∉ ([0x07, 0x0A, 0x15, 0x18, 0x1E, 0x33, 0x55, 0x65] : List Byte)) ∧
    ∀ e, decode op = .error e → e = .invalidOpcode op ∨ e = .unimplementedOpcode op

/-! ### The cycle -/

/-- A step runs the decoded instruction: the bytes at `pc`, big-endian, decode to `i`, and the step is `exec i` with
nothing around it (R100, R45). -/
def Obligations.StepRunsTheDecodedInstruction : Prop :=
  ∀ (s : State) (op : Word) (i : Instr), s.run = .running → s.pc.toNat + 1 < s.endAddr →
    op.toNat = 256 * (s.mem.read s.pc.toNat).toNat + (s.mem.read (s.pc.toNat + 1)).toNat →
    decode op = .ok i → step s = exec i s

/-- R100: nothing on a halted engine; else fetch, decode, execute, in this order, and a raise in one stage means the
later stages do not happen; a raise anywhere changes only `run`. That a step on a halted engine is a next state equal to
it is the model's reading (D32 in R173, log 10), and that faults are precise is D26 (log 28). Which address or opcode is
recorded is stated apart. -/
def Obligations.CycleRunsItsStagesInOrder : Prop :=
  ∀ s : State,
    (s.run ≠ .running → step s = .next s) ∧
    (s.run = .running →
      (s.endAddr ≤ s.pc.toNat + 1 → ∃ a, step s = .next (raise .addressOutOfBounds a s)) ∧
      (s.pc.toNat + 1 < s.endAddr → ∀ op : Word,
        op.toNat = 256 * (s.mem.read s.pc.toNat).toNat + (s.mem.read (s.pc.toNat + 1)).toNat →
        (∀ i, decode op = .ok i → step s = exec i s) ∧
        (∀ e, decode op = .error e → step s = .next (raiseDecode e s)))) ∧
    (∀ t, step s = .next t → t.run ≠ s.run → t = s.setRun t.run)

/-- T-FAULT row 3, fetch: the lowest offending address is recorded, `pc` if it is out of range, else `pc + 1`
(D27, log 29). -/
def Obligations.FetchFaultRecordsLowestAddress : Prop :=
  ∀ s : State, s.run = .running → s.endAddr ≤ s.pc.toNat + 1 →
    step s = .next (raise .addressOutOfBounds (if s.endAddr ≤ s.pc.toNat then s.pc.toNat else s.pc.toNat + 1) s)

/-- T-FAULT rows 1 and 2: every decode fault records the opcode and changes nothing but `run` (D27, log 29), for each
family that has one: B, 0, 8, E and F (which words these are is D3 and D4, log 24). -/
def Obligations.DecodeFaultRecordsTheOpcode : Prop :=
  ∀ (s : State) (op : Word), s.run = .running → s.pc.toNat + 1 < s.endAddr →
    op.toNat = 256 * (s.mem.read s.pc.toNat).toNat + (s.mem.read (s.pc.toNat + 1)).toNat →
    (famField op = 0xB → step s = .next (raise .invalidOpcode op.toNat s)) ∧
    (famField op = 0x0 → op ≠ 0x00E0 → op ≠ 0x00EE → step s = .next (raise .unimplementedOpcode op.toNat s)) ∧
    (famField op = 0x8 → 8 ≤ (nField op).toNat → step s = .next (raise .unimplementedOpcode op.toNat s)) ∧
    (famField op = 0xE → nnField op ≠ 0x9E → nnField op ≠ 0xA1 →
      step s = .next (raise .unimplementedOpcode op.toNat s)) ∧
    (famField op = 0xF → nnField op ∉ ([0x07, 0x0A, 0x15, 0x18, 0x1E, 0x33, 0x55, 0x65] : List Byte) →
      step s = .next (raise .unimplementedOpcode op.toNat s))

/-- R22: a cycle happens only in `Running`; every fault moves to `Halted`; a step that changes `run` goes from `Running`
to `Halted`; no host action but reset moves `Halted`, and a reset gives `Running`; no instruction reads `run`. That a step
on a halted engine is a next state equal to it is the model's reading (D32 in R173, log 10). The last clause compares two
executions with the same draw counter, so for `RND` it holds the draw equal, which is the model's choice (D31, log 2). -/
def Obligations.RunStateOnlyHaltsAndOnlyResetRevives : Prop :=
  (∀ s : State, s.run ≠ .running → step s = .next s) ∧
  (∀ (k : FaultKind) (info : Nat) (s : State), (raise k info s).run = .halted k info) ∧
  (∀ s t : State, step s = .next t → t.run ≠ s.run → s.run = .running ∧ ∃ k info, t.run = .halted k info) ∧
  (∀ (as : List HostAction) (s : State) (k : FaultKind) (info : Nat), (∀ a ∈ as, a.keepsRun = true) →
    s.run = .halted k info → ∃ t rs, performAll as s = .next (t, rs) ∧ t.run = .halted k info) ∧
  (∀ (l : Launch) (s : State), ∃ t, perform (.reset l) s = .next (t, .nothing) ∧ t.run = .running) ∧
  (∀ (i : Instr) (s : State) (r q : RunState),
    ∃ t t', exec i s = .next t ∧ exec i (s.setRun r) = .next t' ∧ t'.setRun q = t.setRun q)

/-- R172: faults are precise. A cycle that changes `run` changes nothing else (D26, log 28). -/
def Obligations.FaultingCycleChangesOnlyRun : Prop :=
  ∀ s t : State, step s = .next t → t.run ≠ s.run → ∃ k info, t = raise k info s

/-- R170 and R174: which execute-stage fault each instruction can raise, when, and what it records (D12, D18, D27;
log 15, 21, 29). -/
def Obligations.ExecuteFaultsAreTheListedOnes : Prop :=
  ∀ (i : Instr) (s t : State) (k : FaultKind) (info : Nat), s.run = .running → exec i s = .next t →
    t.run = .halted k info →
    (∃ nnn, i = .call nnn ∧ s.cfg.stackDepth = some s.stack.length ∧ k = .stackOverflow ∧
      info = 0x2000 + nnn.toNat) ∨
    (i = .ret ∧ s.stack = [] ∧ k = .stackUnderflow ∧ info = 0x00EE) ∨
    (i = .addIV VF ∧ k = .reservedOperandMisuse ∧ info = 0xFF1E) ∨
    (k = .addressOutOfBounds ∧ info = max s.I.toNat s.endAddr ∧
      ((∃ x, i = .bcd x ∧ s.endAddr ≤ s.I.toNat + 2) ∨ (∃ x, i = .dump x ∧ s.endAddr ≤ s.I.toNat + x.val) ∨
        (∃ x, i = .load x ∧ s.endAddr ≤ s.I.toNat + x.val) ∨
        (∃ x y n, i = .drw x y n ∧ 0 < n ∧ s.endAddr < s.I.toNat + n)))

/-- The loader's word runs (R55, R190; log 9): after an opcode is placed at `pc`, the next step executes it. -/
def Obligations.PlacedOpcodeRunsNext : Prop :=
  ∀ (s : State) (op : Word) (i : Instr), s.mem.wf → decode op = .ok i →
    step (s.placeAtPc op) = exec i (s.placeAtPc op)

/-! ### Invariants and whole-machine rules -/

/-- The invariant holds at reset (table T-RESET). -/
def Obligations.InvariantHoldsAtReset : Prop := State.reset.Inv

/-- Every step keeps the invariant: canonical memory, stack depth (R18), legal launch parameters (R4), nothing written
at or above `END` (R42). -/
def Obligations.StepKeepsTheInvariant : Prop :=
  ∀ s t : State, s.Inv → step s = .next t → t.Inv

/-- So does every host action, for launches that meet the host's duties (R182, R185). -/
def Obligations.HostActionKeepsTheInvariant : Prop :=
  ∀ (a : HostAction) (s t : State) (r : HostResult), (∀ l, a = .reset l → l.legal = true) → s.Inv →
    perform a s = .next (t, r) → t.Inv

/-- R13, R14, R16, R18, R19, R20, R21, R44, R12: each part of the state is changed only by its own instructions, and a
general register only by an instruction that names it as destination or has it as its flag (`regsWritten`). -/
def Obligations.StateIsChangedOnlyByItsInstructions : Prop :=
  ∀ (i : Instr) (s t : State), exec i s = .next t →
    (t.I ≠ s.I → (∃ nnn, i = .ldIN nnn) ∨ ∃ x, i = .addIV x) ∧
    (t.DT ≠ s.DT → ∃ x, i = .ldDTV x) ∧
    (t.ST ≠ s.ST → ∃ x, i = .ldSTV x) ∧
    (t.stack ≠ s.stack → (∃ nnn, i = .call nnn) ∨ i = .ret) ∧
    (t.pixels ≠ s.pixels ∨ t.events ≠ s.events → i = .cls ∨ ∃ x y n, i = .drw x y n) ∧
    (t.latch ≠ s.latch → ∃ x, i = .ldVK x ∨ i = .skp x ∨ i = .sknp x) ∧
    (t.mem ≠ s.mem → ∃ x, i = .bcd x ∨ i = .dump x) ∧
    (t.draws ≠ s.draws → ∃ x nn, i = .rndVN x nn) ∧
    (∀ r, t.getV r ≠ s.getV r → r ∈ regsWritten i) ∧
    t.endAddr = s.endAddr ∧ t.cfg = s.cfg

/-- R42, R10: no step changes a cell at or above `END`, nor `END`, nor the configuration. -/
def Obligations.StepNeverWritesAboveEnd : Prop :=
  ∀ s t : State, s.mem.wf → step s = .next t →
    (∀ a, s.endAddr ≤ a → t.mem.read a = s.mem.read a) ∧ t.endAddr = s.endAddr ∧ t.cfg = s.cfg

/-- R20, R162: no instruction reads the event queue or the sound timer, so two states that differ only in them step
to states that differ only in them. The two states have the same draw counter, so for `RND` the draw is held equal, which
is the model's choice (D31, log 2); that no instruction reads the sound timer is D24 (log 27). -/
def Obligations.QueueAndSoundTimerAreNeverRead : Prop :=
  ∀ s s' t t' : State, blankUnread s = blankUnread s' → step s = .next t → step s' = .next t' →
    blankUnread t = blankUnread t'

/-- R20, R152: the events a step emits, replayed on the grid, give the grid after it. -/
def Obligations.EventsOfAStepReplayTheGrid : Prop :=
  ∀ (s t : State) (g : Grid), replay s.events g = s.pixels → step s = .next t → replay t.events g = t.pixels

/-- R20, R152, whole runs: everything drained, followed by what is still queued, replayed from an all-unset surface,
gives the grid, for every interleaving of host actions after any reset. -/
def Obligations.DrainedHistoryReplaysTheDisplay : Prop :=
  ∀ (l : Launch) (as : List HostAction) (s t : State) (rs : List HostResult), (∀ a ∈ as, a.keepsRun = true) →
    performAll (.reset l :: as) s = .next (t, rs) →
    replay (drainedEvents rs ++ t.events) Grid.blank = t.pixels

/-! ### Control transfer -/

/-- `JP nnn` (R102). -/
def Obligations.JumpSetsPc : Prop :=
  ∀ (nnn : BitVec 12) (s : State), ∃ t, exec (.jp nnn) s = .next t ∧ t.pc.toNat = nnn.toNat ∧ Frame [] [] s t

/-- `CALL nnn` (R103): push `npc` and jump; on a full stack raise `StackOverflow(op)` (D12, log 15). -/
def Obligations.CallPushesTheReturnAddress : Prop :=
  ∀ (nnn : BitVec 12) (s : State),
    (s.cfg.stackDepth ≠ some s.stack.length → ∃ t, exec (.call nnn) s = .next t ∧ t.pc.toNat = nnn.toNat ∧
      t.stack = (s.pc + 2) :: s.stack ∧ Frame [] [.stack] s t) ∧
    (s.cfg.stackDepth = some s.stack.length →
      exec (.call nnn) s = .next (raise .stackOverflow (0x2000 + nnn.toNat) s))

/-- `RET` (R104), whole: its opcode, the pop, `StackUnderflow(op)` on an empty stack, and that every value on the stack
was pushed by a `CALL` as its `npc`. -/
def Obligations.ReturnPopsIntoPc : Prop :=
  encode .ret = 0x00EE ∧ decode 0x00EE = .ok .ret ∧
  ∀ s : State,
    (∀ top rest, s.stack = top :: rest → ∃ t, exec .ret s = .next t ∧ t.pc = top ∧ t.stack = rest ∧
      Frame [] [.stack] s t) ∧
    (s.stack = [] → exec .ret s = .next (raise .stackUnderflow 0x00EE s)) ∧
    ∀ (i : Instr) (t : State), exec i s = .next t → s.stack.length < t.stack.length →
      (∃ nnn, i = .call nnn) ∧ t.stack = (s.pc + 2) :: s.stack

/-- E5: a call and then a return resume right after the call, with the stack as before. -/
def Obligations.CallThenReturnResumes : Prop :=
  ∀ (nnn : BitVec 12) (s : State), s.cfg.stackDepth ≠ some s.stack.length →
    ∃ t, exec (.call nnn) s = .next t ∧ exec .ret t = .next (s.setPc (s.pc + 2))

/-! ### Conditional skips -/

/-- R110: the six skips compare all 8 bits and go to `pc + 4` or `npc`; no skip writes anything else, but for the two
keyboard variants, which empty the latch. That these two empty it whether or not it matched, and compare all 8 bits, is
D22 (log 26); on an empty latch they compare the open byte `NOKEY` (D21, log 1), which is in `latchByte`. -/
def Obligations.SkipsCompareAndSkip : Prop :=
  ∀ (x y : RegIdx) (nn : Byte) (s : State),
    (∃ t, exec (.seVN x nn) s = .next t ∧ t.pc = (if s.getV x = nn then s.pc + 4 else s.pc + 2) ∧
      Frame [] [] s t) ∧
    (∃ t, exec (.sneVN x nn) s = .next t ∧ t.pc = (if s.getV x ≠ nn then s.pc + 4 else s.pc + 2) ∧
      Frame [] [] s t) ∧
    (∃ t, exec (.seVV x y) s = .next t ∧ t.pc = (if s.getV x = s.getV y then s.pc + 4 else s.pc + 2) ∧
      Frame [] [] s t) ∧
    (∃ t, exec (.sneVV x y) s = .next t ∧ t.pc = (if s.getV x ≠ s.getV y then s.pc + 4 else s.pc + 2) ∧
      Frame [] [] s t) ∧
    (∃ t, exec (.skp x) s = .next t ∧ t.pc = (if s.getV x = latchByte s then s.pc + 4 else s.pc + 2) ∧
      t.latch = none ∧ Frame [] [.latch] s t) ∧
    (∃ t, exec (.sknp x) s = .next t ∧ t.pc = (if s.getV x ≠ latchByte s then s.pc + 4 else s.pc + 2) ∧
      t.latch = none ∧ Frame [] [.latch] s t)

/-! ### Register set and arithmetic -/

/-- `LD Vx, nn` (R122), whole: its opcode and its effect. -/
def Obligations.LoadImmediateSetsTheRegister : Prop :=
  ∀ (x : RegIdx) (nn : Byte) (s : State),
    (encode (.ldVN x nn)).toNat = 0x6000 + 256 * x.val + nn.toNat ∧ decode (encode (.ldVN x nn)) = .ok (.ldVN x nn) ∧
    ∃ t, exec (.ldVN x nn) s = .next t ∧ t.getV x = nn ∧ t.pc = s.pc + 2 ∧ Frame [x] [] s t

/-- `ADD Vx, nn` (R123): the sum modulo 256, and no flag. -/
def Obligations.AddImmediateWraps : Prop :=
  ∀ (x : RegIdx) (nn : Byte) (s : State), ∃ t, exec (.addVN x nn) s = .next t ∧
    (t.getV x).toNat = ((s.getV x).toNat + nn.toNat) % 256 ∧ t.pc = s.pc + 2 ∧ Frame [x] [] s t

/-- `LD Vx, Vy`, `OR`, `AND`, `XOR` (R124 to R127), bit by bit. `VF` is not modified unless it is the destination (for
`OR`, `AND`, `XOR` that is D14, log 17). -/
def Obligations.CopyAndBitwiseWorkBitByBit : Prop :=
  ∀ (x y : RegIdx) (s : State),
    (∃ t, exec (.ldVV x y) s = .next t ∧ t.getV x = s.getV y ∧ t.pc = s.pc + 2 ∧ Frame [x] [] s t) ∧
    (∃ t, exec (.orVV x y) s = .next t ∧
      (∀ k, (t.getV x).getLsbD k = ((s.getV x).getLsbD k || (s.getV y).getLsbD k)) ∧ t.pc = s.pc + 2 ∧
      Frame [x] [] s t) ∧
    (∃ t, exec (.andVV x y) s = .next t ∧
      (∀ k, (t.getV x).getLsbD k = ((s.getV x).getLsbD k && (s.getV y).getLsbD k)) ∧ t.pc = s.pc + 2 ∧
      Frame [x] [] s t) ∧
    (∃ t, exec (.xorVV x y) s = .next t ∧
      (∀ k, (t.getV x).getLsbD k = ((s.getV x).getLsbD k ^^ (s.getV y).getLsbD k)) ∧ t.pc = s.pc + 2 ∧
      Frame [x] [] s t)

/-- `ADD Vx, Vy` (R128): the low 8 bits of the sum, and the carry in `VF`; with `x = 15` the sum stays (R121, D13,
log 16). -/
def Obligations.AddReportsTheCarry : Prop :=
  ∀ (x y : RegIdx) (s : State), ∃ t, exec (.addVV x y) s = .next t ∧
    (t.getV x).toNat = ((s.getV x).toNat + (s.getV y).toNat) % 256 ∧
    (x ≠ VF → (t.getV VF).toNat = if 255 < (s.getV x).toNat + (s.getV y).toNat then 1 else 0) ∧
    t.pc = s.pc + 2 ∧ Frame [x, VF] [] s t

/-- `SUB Vx, Vy` (R129): the difference modulo 256, and `VF` = 1 iff `V[x] < V[y]`; with `x = 15` the difference stays
(R121, D13, log 16). -/
def Obligations.SubReportsTheBorrow : Prop :=
  ∀ (x y : RegIdx) (s : State), ∃ t, exec (.subVV x y) s = .next t ∧
    ((t.getV x).toNat : Int) = ((s.getV x).toNat - (s.getV y).toNat : Int) % 256 ∧
    (x ≠ VF → (t.getV VF).toNat = if (s.getV x).toNat < (s.getV y).toNat then 1 else 0) ∧
    t.pc = s.pc + 2 ∧ Frame [x, VF] [] s t

/-- `SHR Vx, Vy` (R130): the source halved, and its low bit in `VF`, for the source that `SHIFT_SRC` selects (D15,
log 18); with `x = 15` the result stays (R121, D13, log 16). -/
def Obligations.ShiftReportsTheLowBit : Prop :=
  ∀ (x y : RegIdx) (s : State) (src : Byte),
    (s.cfg.shiftSrc = .vy → src = s.getV y) → (s.cfg.shiftSrc = .vx → src = s.getV x) →
    ∃ t, exec (.shrVV x y) s = .next t ∧ (t.getV x).toNat = src.toNat / 2 ∧
      (x ≠ VF → (t.getV VF).toNat = src.toNat % 2) ∧ t.pc = s.pc + 2 ∧ Frame [x, VF] [] s t

/-- `SUBN Vx, Vy` (R131): `V[y] - V[x]` modulo 256 (the wrap is D16, log 19), and no flag. -/
def Obligations.ReverseSubtractWritesNoFlag : Prop :=
  ∀ (x y : RegIdx) (s : State), ∃ t, exec (.subnVV x y) s = .next t ∧
    ((t.getV x).toNat : Int) = ((s.getV y).toNat - (s.getV x).toNat : Int) % 256 ∧
    t.pc = s.pc + 2 ∧ Frame [x] [] s t

/-- `RND Vx, nn` (R132): some draw masked with `nn`, whatever the draw is (D31, log 2), and the next draw is another. -/
def Obligations.RandomIsADrawUnderTheMask : Prop :=
  ∀ (x : RegIdx) (nn : Byte) (s : State), ∃ t, exec (.rndVN x nn) s = .next t ∧
    t.getV x = Config.rnd s.draws &&& nn ∧ t.getV x &&& ~~~nn = 0 ∧ t.draws = s.draws + 1 ∧
    t.pc = s.pc + 2 ∧ Frame [x] [.draws] s t

/-! ### Index register and memory -/

/-- `LD I, nnn` (R140). -/
def Obligations.SetIndexLoadsTheAddress : Prop :=
  ∀ (nnn : BitVec 12) (s : State), ∃ t, exec (.ldIN nnn) s = .next t ∧ t.I.toNat = nnn.toNat ∧
    t.pc = s.pc + 2 ∧ Frame [] [.I] s t

/-- `ADD I, Vx` (R141): the sum modulo 65536 and no flag (D17, log 20); `x = 15` raises `ReservedOperandMisuse(op)`
(D18, log 21). -/
def Obligations.IndexAddWrapsAndRefusesVF : Prop :=
  ∀ (x : RegIdx) (s : State),
    (x ≠ VF → ∃ t, exec (.addIV x) s = .next t ∧ t.I.toNat = (s.I.toNat + (s.getV x).toNat) % 65536 ∧
      t.pc = s.pc + 2 ∧ Frame [] [.I] s t) ∧
    exec (.addIV VF) s = .next (raise .reservedOperandMisuse 0xFF1E s)

/-- `BCD Vx` (R142): three decimal digits from `I` up (D20, GK-3, log 23), and every other byte as before. -/
def Obligations.BcdStoresThreeDigits : Prop :=
  ∀ (x : RegIdx) (s : State), s.mem.wf → s.I.toNat + 3 ≤ s.endAddr → ∃ t, exec (.bcd x) s = .next t ∧
    (t.mem.read s.I.toNat).toNat = (s.getV x).toNat / 100 ∧
    (t.mem.read (s.I.toNat + 1)).toNat = (s.getV x).toNat / 10 % 10 ∧
    (t.mem.read (s.I.toNat + 2)).toNat = (s.getV x).toNat % 10 ∧
    (∀ a, a < s.I.toNat ∨ s.I.toNat + 3 ≤ a → t.mem.read a = s.mem.read a) ∧
    t.pc = s.pc + 2 ∧ Frame [] [.memory] s t

/-- `LD [I], Vx` (R143): `V[0]` to `V[x]` at `I` to `I + x`, `I` unchanged (D19, GK-4, log 22), and every other byte as
before. -/
def Obligations.DumpStoresTheRegisters : Prop :=
  ∀ (x : RegIdx) (s : State), s.mem.wf → s.I.toNat + x.val + 1 ≤ s.endAddr → ∃ t, exec (.dump x) s = .next t ∧
    (∀ r : RegIdx, r.val ≤ x.val → t.mem.read (s.I.toNat + r.val) = s.getV r) ∧
    (∀ a, a < s.I.toNat ∨ s.I.toNat + x.val + 1 ≤ a → t.mem.read a = s.mem.read a) ∧
    t.pc = s.pc + 2 ∧ Frame [] [.memory] s t

/-- `LD Vx, [I]` (R144): `V[0]` to `V[x]` from `I` to `I + x`, the registers above `x` and `I` unchanged (D19, GK-4,
log 22). -/
def Obligations.LoadReadsTheRegisters : Prop :=
  ∀ (x : RegIdx) (s : State), s.I.toNat + x.val + 1 ≤ s.endAddr → ∃ t, exec (.load x) s = .next t ∧
    (∀ r : RegIdx, r.val ≤ x.val → t.getV r = s.mem.read (s.I.toNat + r.val)) ∧
    (∀ r : RegIdx, x.val < r.val → t.getV r = s.getV r) ∧
    t.pc = s.pc + 2 ∧ Frame (List.finRange 16) [] s t

/-- T-FAULT row 3, execute: an access that passes `END` raises `AddressOutOfBounds` at the lowest offending address and
does nothing else (R42, R172; D17, D26, D27; log 20, 28, 29). -/
def Obligations.AccessPastEndFaultsBeforeAnyWrite : Prop :=
  ∀ (x y : RegIdx) (n : Nat) (s : State) (bad : Nat),
    bad = (if s.endAddr ≤ s.I.toNat then s.I.toNat else s.endAddr) →
    (s.endAddr < s.I.toNat + 3 → exec (.bcd x) s = .next (raise .addressOutOfBounds bad s)) ∧
    (s.endAddr < s.I.toNat + x.val + 1 → exec (.dump x) s = .next (raise .addressOutOfBounds bad s)) ∧
    (s.endAddr < s.I.toNat + x.val + 1 → exec (.load x) s = .next (raise .addressOutOfBounds bad s)) ∧
    (0 < n → s.endAddr < s.I.toNat + n → exec (.drw x y n) s = .next (raise .addressOutOfBounds bad s))

/-- R52: a store by `BCD` or `LD [I], Vx` is seen by every fetch of its addresses, starting with the very next one. After
either, a fetch at any `p` gives the two bytes at `p` and `p + 1` as the store left them, however it overlaps them; the
very next fetch is `p = pc + 2`, where `t.setPc p` is `t`. What is stored is D20 (GK-3, log 23) and D19 (GK-4, log 22). -/
def Obligations.StoreIsSeenByTheNextFetch : Prop :=
  ∀ (x : RegIdx) (s : State), s.mem.wf →
    (s.I.toNat + 3 ≤ s.endAddr → ∃ t, exec (.bcd x) s = .next t ∧ t.pc = s.pc + 2 ∧
      ∀ p : Word, p.toNat + 1 < s.endAddr → ∃ op, (t.setPc p).fetch = .ok op ∧
        op.toNat = 256 * (overlaid s (bcdDigits (s.getV x)) p.toNat).toNat +
          (overlaid s (bcdDigits (s.getV x)) (p.toNat + 1)).toNat) ∧
    (s.I.toNat + x.val + 1 ≤ s.endAddr → ∃ t, exec (.dump x) s = .next t ∧ t.pc = s.pc + 2 ∧
      ∀ p : Word, p.toNat + 1 < s.endAddr → ∃ op, (t.setPc p).fetch = .ok op ∧
        op.toNat = 256 * (overlaid s (s.regsUpTo x) p.toNat).toNat +
          (overlaid s (s.regsUpTo x) (p.toNat + 1)).toNat)

/-! ### Display -/

/-- `CLS` (R150), whole: its opcode; every pixel unset, one `ClearAll` event, the flag register unaffected. -/
def Obligations.ClearUnsetsEveryPixel : Prop :=
  encode .cls = 0x00E0 ∧ decode 0x00E0 = .ok .cls ∧
  ∀ s : State, ∃ t, exec .cls s = .next t ∧ (∀ a b, t.pixel a b = false) ∧ t.events = s.events ++ [.clearAll] ∧
    t.pc = s.pc + 2 ∧ Frame [] [.pixels, .events] s t

/-- `DRW Vx, Vy, n` (R151): exactly the pixels under a set bit of the sprite flip, and `VF` is 1 iff one of them was
set (`n = 0`: D30, log 31). -/
def Obligations.DrawTogglesTheSpriteAndReportsCollision : Prop :=
  ∀ (x y : RegIdx) (n : Nat) (s : State), n ≤ 15 → (n = 0 ∨ s.I.toNat + n ≤ s.endAddr) →
    ∃ t, exec (.drw x y n) s = .next t ∧
      (∀ a b, t.pixel a b ≠ s.pixel a b ↔ spriteCovers s x y n a b) ∧
      ((∃ a b, spriteCovers s x y n a b ∧ s.pixel a b = true) → t.getV VF = 1) ∧
      ((¬ ∃ a b, spriteCovers s x y n a b ∧ s.pixel a b = true) → t.getV VF = 0) ∧
      t.pc = s.pc + 2 ∧ Frame [VF] [.pixels, .events] s t

/-- R151, R152: the events of a draw, one for each set bit, carrying the new state, rows ascending and in a row from
the rightmost pixel to the leftmost (the order is D29, log 30). -/
def Obligations.DrawEmitsItsEventsInOrder : Prop :=
  ∀ (x y : RegIdx) (n : Nat) (s : State), n ≤ 15 → (n = 0 ∨ s.I.toNat + n ≤ s.endAddr) →
    ∃ t, exec (.drw x y n) s = .next t ∧
      t.events = s.events ++ (List.range n).flatMap fun p => (List.range 8).filterMap fun q =>
        if (s.mem.read (s.I.toNat + p)).getLsbD q then
          some (.pixel (Fin.ofNat 64 ((s.getV x).toNat + (7 - q))) (Fin.ofNat 32 ((s.getV y).toNat + p))
            (!(s.pixel (Fin.ofNat 64 ((s.getV x).toNat + (7 - q))) (Fin.ofNat 32 ((s.getV y).toNat + p)))))
        else none

/-- R151: drawing the same sprite twice at the same place restores the grid, and the second draw collides iff the sprite
covers a pixel that was unset at first. The coordinates must not be `VF`, which the first draw overwrites. -/
def Obligations.DrawTwiceRestoresTheGrid : Prop :=
  ∀ (x y : RegIdx) (n : Nat) (s : State), n ≤ 15 → (n = 0 ∨ s.I.toNat + n ≤ s.endAddr) → x ≠ VF → y ≠ VF →
    ∃ t u, exec (.drw x y n) s = .next t ∧ exec (.drw x y n) t = .next u ∧ u.pixels = s.pixels ∧
      ((∃ a b, spriteCovers s x y n a b ∧ s.pixel a b = false) → u.getV VF = 1) ∧
      ((¬ ∃ a b, spriteCovers s x y n a b ∧ s.pixel a b = false) → u.getV VF = 0)

/-! ### Timers, latch and host actions -/

/-- `LD Vx, DT`, `LD DT, Vx`, `LD ST, Vx` (R160, R161, R162; which moves exist is D24, log 27). -/
def Obligations.TimerMovesCopyTheByte : Prop :=
  ∀ (x : RegIdx) (s : State),
    (∃ t, exec (.ldVDT x) s = .next t ∧ t.getV x = s.DT ∧ t.pc = s.pc + 2 ∧ Frame [x] [] s t) ∧
    (∃ t, exec (.ldDTV x) s = .next t ∧ t.DT = s.getV x ∧ t.pc = s.pc + 2 ∧ Frame [] [.DT] s t) ∧
    (∃ t, exec (.ldSTV x) s = .next t ∧ t.ST = s.getV x ∧ t.pc = s.pc + 2 ∧ Frame [] [.ST] s t)

/-- `LD Vx, K` (R163): the latched code or `NOKEY` (D21, log 1), the latch empty afterwards, no waiting (D23, log 26). -/
def Obligations.KeyReadConsumesTheLatch : Prop :=
  ∀ (x : RegIdx) (s : State), ∃ t, exec (.ldVK x) s = .next t ∧
    (∀ k, s.latch = some k → (t.getV x).toNat = k.toNat) ∧ (s.latch = none → t.getV x = Config.noKey) ∧
    t.latch = none ∧ t.pc = s.pc + 2 ∧ Frame [x] [.latch] s t

/-- E7: a pushed key is read once; an immediate second read gives "no key". -/
def Obligations.PushedKeyIsReadOnce : Prop :=
  ∀ (x : RegIdx) (k : BitVec 4) (s : State),
    ∃ t u, exec (.ldVK x) (s.pushKey (some k)) = .next t ∧ (t.getV x).toNat = k.toNat ∧
      exec (.ldVK x) t = .next u ∧ u.getV x = Config.noKey

/-- `tick()` (R178): `k` ticks take `k` from each timer, stopping at zero, and change nothing else (also on a halted
engine: D32, log 11). -/
def Obligations.TicksCountDownToZero : Prop :=
  ∀ (k : Nat) (s : State), ((State.tick^[k] s).DT).toNat = s.DT.toNat - k ∧
    ((State.tick^[k] s).ST).toNat = s.ST.toNat - k ∧ (State.tick^[k] s).pc = s.pc ∧
    Frame [] [.DT, .ST] s (State.tick^[k] s)

/-- `push_key` and `drain` (R183, R184): the last push wins; a drain returns the whole queue in order and leaves it
empty; neither changes anything else (drain takes all: D29, log 30). -/
def Obligations.PushReplacesAndDrainEmpties : Prop :=
  ∀ (k : Option (BitVec 4)) (s : State),
    (∃ t, perform (.pushKey k) s = .next (t, .nothing) ∧ t.latch = k ∧ t.pc = s.pc ∧ Frame [] [.latch] s t) ∧
    (∃ t, perform .drain s = .next (t, .drained s.events) ∧ t.events = [] ∧ t.pc = s.pc ∧ Frame [] [.events] s t)

/-- Reset (R190, table T-RESET): every launch leaves the reset values (run, pc, stack, I are the document's; the rest
is D25, log 8), `FONT`, `LOW_FILL` and `PROGRAM` in memory, and no event. -/
def Obligations.LaunchLeavesTheResetTable : Prop :=
  ∀ (l : Launch) (s : State), l.legal = true → ∃ t, perform (.reset l) s = .next (t, .nothing) ∧
    t.run = .running ∧ t.pc = 0x200 ∧ t.stack = [] ∧ t.I = 0 ∧ (∀ r, t.getV r = 0) ∧ t.DT = 0 ∧ t.ST = 0 ∧
    (∀ a b, t.pixel a b = false) ∧ t.events = [] ∧ t.latch = none ∧ t.endAddr = 0x200 + l.program.length ∧
    t.cfg = l.config ∧
    (∀ k b, l.font[k]? = some b → t.mem.read k = b) ∧
    (∀ k b, l.lowFill[k]? = some b → t.mem.read (0x50 + k) = b) ∧
    (∀ k b, l.program[k]? = some b → t.mem.read (0x200 + k) = b)

/-- The state after reset of the model is the launch of the empty program in the spec's default configuration (D7, D8,
D9, D12, D15; log 4, 5, 6, 9). -/
def Obligations.ResetIsTheDefaultLaunch : Prop := State.launch {} = State.reset
end

