-- ==== Sys2Proof/Laws/Encoding.lean ====
section
/-! SUPPORT. The fields of an opcode and the formats of table T-FMT as numbers, and each field of each format read
back. -/

namespace Sys2Proof

theorem toNat_append_eq {m n : Nat} (a : BitVec m) (b : BitVec n) :
    (a ++ b).toNat = a.toNat * 2 ^ n + b.toNat := by
  rw [BitVec.toNat_append, ← Nat.shiftLeft_add_eq_or_of_lt b.isLt, Nat.shiftLeft_eq]

theorem formNNN_toNat (f : Nibble) (nnn : BitVec 12) : (formNNN f nnn).toNat = f.toNat * 4096 + nnn.toNat :=
  toNat_append_eq f nnn

theorem formXNN_toNat (f : Nibble) (x : RegIdx) (nn : Byte) :
    (formXNN f x nn).toNat = f.toNat * 4096 + x.val * 256 + nn.toNat := by
  unfold formXNN
  rw [toNat_append_eq, toNat_append_eq]
  show (f.toNat * 16 + x.val) * 256 + nn.toNat = _
  ring

theorem formXYN_toNat (f : Nibble) (x y : RegIdx) (n : Nibble) :
    (formXYN f x y n).toNat = f.toNat * 4096 + x.val * 256 + y.val * 16 + n.toNat := by
  unfold formXYN
  rw [toNat_append_eq, toNat_append_eq, toNat_append_eq]
  show ((f.toNat * 16 + x.val) * 16 + y.val) * 16 + n.toNat = _
  ring

/-! ### The fields as numbers (rule R61) -/

theorem famField_toNat (op : Word) : (famField op).toNat = op.toNat / 4096 := by
  have := op.isLt
  rw [famField, BitVec.extractLsb'_toNat, Nat.shiftRight_eq_div_pow]
  omega

theorem xField_val (op : Word) : (xField op).val = op.toNat / 256 % 16 := by
  show (op.extractLsb' 8 4).toNat = _
  rw [BitVec.extractLsb'_toNat, Nat.shiftRight_eq_div_pow]

theorem yField_val (op : Word) : (yField op).val = op.toNat / 16 % 16 := by
  show (op.extractLsb' 4 4).toNat = _
  rw [BitVec.extractLsb'_toNat, Nat.shiftRight_eq_div_pow]

theorem nField_toNat (op : Word) : (nField op).toNat = op.toNat % 16 := by
  rw [nField, BitVec.extractLsb'_toNat, Nat.shiftRight_eq_div_pow]
  omega

theorem nnField_toNat (op : Word) : (nnField op).toNat = op.toNat % 256 := by
  rw [nnField, BitVec.extractLsb'_toNat, Nat.shiftRight_eq_div_pow]
  omega

theorem nnnField_toNat (op : Word) : (nnnField op).toNat = op.toNat % 4096 := by
  rw [nnnField, BitVec.extractLsb'_toNat, Nat.shiftRight_eq_div_pow]
  omega

/-! ### Each field of each format read back -/

@[simp] theorem famField_formNNN (f : Nibble) (nnn : BitVec 12) : famField (formNNN f nnn) = f := by
  have := nnn.isLt
  apply BitVec.eq_of_toNat_eq
  rw [famField_toNat, formNNN_toNat]
  omega

@[simp] theorem nnnField_formNNN (f : Nibble) (nnn : BitVec 12) : nnnField (formNNN f nnn) = nnn := by
  have := nnn.isLt
  apply BitVec.eq_of_toNat_eq
  rw [nnnField_toNat, formNNN_toNat]
  omega

@[simp] theorem famField_formXNN (f : Nibble) (x : RegIdx) (nn : Byte) : famField (formXNN f x nn) = f := by
  have := nn.isLt
  have := x.isLt
  apply BitVec.eq_of_toNat_eq
  rw [famField_toNat, formXNN_toNat]
  omega

@[simp] theorem xField_formXNN (f : Nibble) (x : RegIdx) (nn : Byte) : xField (formXNN f x nn) = x := by
  have := nn.isLt
  have := x.isLt
  ext
  rw [xField_val, formXNN_toNat]
  omega

@[simp] theorem nnField_formXNN (f : Nibble) (x : RegIdx) (nn : Byte) : nnField (formXNN f x nn) = nn := by
  have := nn.isLt
  apply BitVec.eq_of_toNat_eq
  rw [nnField_toNat, formXNN_toNat]
  omega

@[simp] theorem famField_formXYN (f : Nibble) (x y : RegIdx) (n : Nibble) : famField (formXYN f x y n) = f := by
  have := n.isLt
  have := x.isLt
  have := y.isLt
  apply BitVec.eq_of_toNat_eq
  rw [famField_toNat, formXYN_toNat]
  omega

@[simp] theorem xField_formXYN (f : Nibble) (x y : RegIdx) (n : Nibble) : xField (formXYN f x y n) = x := by
  have := n.isLt
  have := x.isLt
  have := y.isLt
  ext
  rw [xField_val, formXYN_toNat]
  omega

@[simp] theorem yField_formXYN (f : Nibble) (x y : RegIdx) (n : Nibble) : yField (formXYN f x y n) = y := by
  have := n.isLt
  have := y.isLt
  ext
  rw [yField_val, formXYN_toNat]
  omega

@[simp] theorem nField_formXYN (f : Nibble) (x y : RegIdx) (n : Nibble) : nField (formXYN f x y n) = n := by
  have := n.isLt
  apply BitVec.eq_of_toNat_eq
  rw [nField_toNat, formXYN_toNat]
  omega

/-! ### The bytes of an opcode (rule R45) -/

theorem hiByte_toNat (op : Word) : (hiByte op).toNat = op.toNat / 256 := by
  have := op.isLt
  rw [hiByte, BitVec.extractLsb'_toNat, Nat.shiftRight_eq_div_pow]
  omega

theorem loByte_toNat (op : Word) : (loByte op).toNat = op.toNat % 256 := by
  rw [loByte, BitVec.extractLsb'_toNat, Nat.shiftRight_eq_div_pow]
  omega

theorem opcodeOf_toNat (hi lo : Byte) : (opcodeOf hi lo).toNat = hi.toNat * 256 + lo.toNat := toNat_append_eq hi lo

@[simp] theorem opcodeOf_bytes (op : Word) : opcodeOf (hiByte op) (loByte op) = op := by
  apply BitVec.eq_of_toNat_eq
  rw [opcodeOf_toNat, hiByte_toNat, loByte_toNat]
  omega

@[simp] theorem hiByte_opcodeOf (hi lo : Byte) : hiByte (opcodeOf hi lo) = hi := by
  have := lo.isLt
  apply BitVec.eq_of_toNat_eq
  rw [hiByte_toNat, opcodeOf_toNat]
  omega

@[simp] theorem loByte_opcodeOf (hi lo : Byte) : loByte (opcodeOf hi lo) = lo := by
  have := lo.isLt
  apply BitVec.eq_of_toNat_eq
  rw [loByte_toNat, opcodeOf_toNat]
  omega

/-- Family 0 holds the two literals, so the family dispatch decides every opcode of another family. -/
theorem decode_of_family {op : Word} (h : famField op ≠ 0x0) : decode op = decodeFamily op := by
  unfold decode
  split
  · subst op; exact absurd (by decide) h
  · split
    · subst op; exact absurd (by decide) h
    · rfl

end Sys2Proof
end

