-- ==== Sys2Proof/Laws/State.lean ====
section
/-! SUPPORT. What each named update of the state does to each field: one lemma a field, all true by unfolding. -/

namespace Sys2Proof.Machine

variable (s : State)

/-! ### `setPc` -/

@[simp] theorem State.setPc_V (p : Word) : (s.setPc p).V = s.V := rfl
@[simp] theorem State.setPc_DT (p : Word) : (s.setPc p).DT = s.DT := rfl
@[simp] theorem State.setPc_ST (p : Word) : (s.setPc p).ST = s.ST := rfl
@[simp] theorem State.setPc_I (p : Word) : (s.setPc p).I = s.I := rfl
@[simp] theorem State.setPc_pc (p : Word) : (s.setPc p).pc = p := rfl
@[simp] theorem State.setPc_stack (p : Word) : (s.setPc p).stack = s.stack := rfl
@[simp] theorem State.setPc_run (p : Word) : (s.setPc p).run = s.run := rfl
@[simp] theorem State.setPc_pixels (p : Word) : (s.setPc p).pixels = s.pixels := rfl
@[simp] theorem State.setPc_events (p : Word) : (s.setPc p).events = s.events := rfl
@[simp] theorem State.setPc_latch (p : Word) : (s.setPc p).latch = s.latch := rfl
@[simp] theorem State.setPc_mem (p : Word) : (s.setPc p).mem = s.mem := rfl
@[simp] theorem State.setPc_endAddr (p : Word) : (s.setPc p).endAddr = s.endAddr := rfl
@[simp] theorem State.setPc_cfg (p : Word) : (s.setPc p).cfg = s.cfg := rfl
@[simp] theorem State.setPc_draws (p : Word) : (s.setPc p).draws = s.draws := rfl
@[simp] theorem State.setPc_getV (p : Word) (r : RegIdx) : (s.setPc p).getV r = s.getV r := rfl

/-! ### `setI` -/

@[simp] theorem State.setI_V (v : Word) : (s.setI v).V = s.V := rfl
@[simp] theorem State.setI_DT (v : Word) : (s.setI v).DT = s.DT := rfl
@[simp] theorem State.setI_ST (v : Word) : (s.setI v).ST = s.ST := rfl
@[simp] theorem State.setI_I (v : Word) : (s.setI v).I = v := rfl
@[simp] theorem State.setI_pc (v : Word) : (s.setI v).pc = s.pc := rfl
@[simp] theorem State.setI_stack (v : Word) : (s.setI v).stack = s.stack := rfl
@[simp] theorem State.setI_run (v : Word) : (s.setI v).run = s.run := rfl
@[simp] theorem State.setI_pixels (v : Word) : (s.setI v).pixels = s.pixels := rfl
@[simp] theorem State.setI_events (v : Word) : (s.setI v).events = s.events := rfl
@[simp] theorem State.setI_latch (v : Word) : (s.setI v).latch = s.latch := rfl
@[simp] theorem State.setI_mem (v : Word) : (s.setI v).mem = s.mem := rfl
@[simp] theorem State.setI_endAddr (v : Word) : (s.setI v).endAddr = s.endAddr := rfl
@[simp] theorem State.setI_cfg (v : Word) : (s.setI v).cfg = s.cfg := rfl
@[simp] theorem State.setI_draws (v : Word) : (s.setI v).draws = s.draws := rfl
@[simp] theorem State.setI_getV (v : Word) (r : RegIdx) : (s.setI v).getV r = s.getV r := rfl

/-! ### `setDT` -/

@[simp] theorem State.setDT_V (v : Byte) : (s.setDT v).V = s.V := rfl
@[simp] theorem State.setDT_DT (v : Byte) : (s.setDT v).DT = v := rfl
@[simp] theorem State.setDT_ST (v : Byte) : (s.setDT v).ST = s.ST := rfl
@[simp] theorem State.setDT_I (v : Byte) : (s.setDT v).I = s.I := rfl
@[simp] theorem State.setDT_pc (v : Byte) : (s.setDT v).pc = s.pc := rfl
@[simp] theorem State.setDT_stack (v : Byte) : (s.setDT v).stack = s.stack := rfl
@[simp] theorem State.setDT_run (v : Byte) : (s.setDT v).run = s.run := rfl
@[simp] theorem State.setDT_pixels (v : Byte) : (s.setDT v).pixels = s.pixels := rfl
@[simp] theorem State.setDT_events (v : Byte) : (s.setDT v).events = s.events := rfl
@[simp] theorem State.setDT_latch (v : Byte) : (s.setDT v).latch = s.latch := rfl
@[simp] theorem State.setDT_mem (v : Byte) : (s.setDT v).mem = s.mem := rfl
@[simp] theorem State.setDT_endAddr (v : Byte) : (s.setDT v).endAddr = s.endAddr := rfl
@[simp] theorem State.setDT_cfg (v : Byte) : (s.setDT v).cfg = s.cfg := rfl
@[simp] theorem State.setDT_draws (v : Byte) : (s.setDT v).draws = s.draws := rfl
@[simp] theorem State.setDT_getV (v : Byte) (r : RegIdx) : (s.setDT v).getV r = s.getV r := rfl

/-! ### `setST` -/

@[simp] theorem State.setST_V (v : Byte) : (s.setST v).V = s.V := rfl
@[simp] theorem State.setST_DT (v : Byte) : (s.setST v).DT = s.DT := rfl
@[simp] theorem State.setST_ST (v : Byte) : (s.setST v).ST = v := rfl
@[simp] theorem State.setST_I (v : Byte) : (s.setST v).I = s.I := rfl
@[simp] theorem State.setST_pc (v : Byte) : (s.setST v).pc = s.pc := rfl
@[simp] theorem State.setST_stack (v : Byte) : (s.setST v).stack = s.stack := rfl
@[simp] theorem State.setST_run (v : Byte) : (s.setST v).run = s.run := rfl
@[simp] theorem State.setST_pixels (v : Byte) : (s.setST v).pixels = s.pixels := rfl
@[simp] theorem State.setST_events (v : Byte) : (s.setST v).events = s.events := rfl
@[simp] theorem State.setST_latch (v : Byte) : (s.setST v).latch = s.latch := rfl
@[simp] theorem State.setST_mem (v : Byte) : (s.setST v).mem = s.mem := rfl
@[simp] theorem State.setST_endAddr (v : Byte) : (s.setST v).endAddr = s.endAddr := rfl
@[simp] theorem State.setST_cfg (v : Byte) : (s.setST v).cfg = s.cfg := rfl
@[simp] theorem State.setST_draws (v : Byte) : (s.setST v).draws = s.draws := rfl
@[simp] theorem State.setST_getV (v : Byte) (r : RegIdx) : (s.setST v).getV r = s.getV r := rfl

/-! ### `setRegs` -/

@[simp] theorem State.setRegs_V (W : Vector Byte 16) : (s.setRegs W).V = W := rfl
@[simp] theorem State.setRegs_DT (W : Vector Byte 16) : (s.setRegs W).DT = s.DT := rfl
@[simp] theorem State.setRegs_ST (W : Vector Byte 16) : (s.setRegs W).ST = s.ST := rfl
@[simp] theorem State.setRegs_I (W : Vector Byte 16) : (s.setRegs W).I = s.I := rfl
@[simp] theorem State.setRegs_pc (W : Vector Byte 16) : (s.setRegs W).pc = s.pc := rfl
@[simp] theorem State.setRegs_stack (W : Vector Byte 16) : (s.setRegs W).stack = s.stack := rfl
@[simp] theorem State.setRegs_run (W : Vector Byte 16) : (s.setRegs W).run = s.run := rfl
@[simp] theorem State.setRegs_pixels (W : Vector Byte 16) : (s.setRegs W).pixels = s.pixels := rfl
@[simp] theorem State.setRegs_events (W : Vector Byte 16) : (s.setRegs W).events = s.events := rfl
@[simp] theorem State.setRegs_latch (W : Vector Byte 16) : (s.setRegs W).latch = s.latch := rfl
@[simp] theorem State.setRegs_mem (W : Vector Byte 16) : (s.setRegs W).mem = s.mem := rfl
@[simp] theorem State.setRegs_endAddr (W : Vector Byte 16) : (s.setRegs W).endAddr = s.endAddr := rfl
@[simp] theorem State.setRegs_cfg (W : Vector Byte 16) : (s.setRegs W).cfg = s.cfg := rfl
@[simp] theorem State.setRegs_draws (W : Vector Byte 16) : (s.setRegs W).draws = s.draws := rfl

/-! ### `setStack` -/

@[simp] theorem State.setStack_V (st : List Word) : (s.setStack st).V = s.V := rfl
@[simp] theorem State.setStack_DT (st : List Word) : (s.setStack st).DT = s.DT := rfl
@[simp] theorem State.setStack_ST (st : List Word) : (s.setStack st).ST = s.ST := rfl
@[simp] theorem State.setStack_I (st : List Word) : (s.setStack st).I = s.I := rfl
@[simp] theorem State.setStack_pc (st : List Word) : (s.setStack st).pc = s.pc := rfl
@[simp] theorem State.setStack_stack (st : List Word) : (s.setStack st).stack = st := rfl
@[simp] theorem State.setStack_run (st : List Word) : (s.setStack st).run = s.run := rfl
@[simp] theorem State.setStack_pixels (st : List Word) : (s.setStack st).pixels = s.pixels := rfl
@[simp] theorem State.setStack_events (st : List Word) : (s.setStack st).events = s.events := rfl
@[simp] theorem State.setStack_latch (st : List Word) : (s.setStack st).latch = s.latch := rfl
@[simp] theorem State.setStack_mem (st : List Word) : (s.setStack st).mem = s.mem := rfl
@[simp] theorem State.setStack_endAddr (st : List Word) : (s.setStack st).endAddr = s.endAddr := rfl
@[simp] theorem State.setStack_cfg (st : List Word) : (s.setStack st).cfg = s.cfg := rfl
@[simp] theorem State.setStack_draws (st : List Word) : (s.setStack st).draws = s.draws := rfl
@[simp] theorem State.setStack_getV (st : List Word) (r : RegIdx) : (s.setStack st).getV r = s.getV r := rfl

/-! ### `setLatch` -/

@[simp] theorem State.setLatch_V (k : Option (BitVec 4)) : (s.setLatch k).V = s.V := rfl
@[simp] theorem State.setLatch_DT (k : Option (BitVec 4)) : (s.setLatch k).DT = s.DT := rfl
@[simp] theorem State.setLatch_ST (k : Option (BitVec 4)) : (s.setLatch k).ST = s.ST := rfl
@[simp] theorem State.setLatch_I (k : Option (BitVec 4)) : (s.setLatch k).I = s.I := rfl
@[simp] theorem State.setLatch_pc (k : Option (BitVec 4)) : (s.setLatch k).pc = s.pc := rfl
@[simp] theorem State.setLatch_stack (k : Option (BitVec 4)) : (s.setLatch k).stack = s.stack := rfl
@[simp] theorem State.setLatch_run (k : Option (BitVec 4)) : (s.setLatch k).run = s.run := rfl
@[simp] theorem State.setLatch_pixels (k : Option (BitVec 4)) : (s.setLatch k).pixels = s.pixels := rfl
@[simp] theorem State.setLatch_events (k : Option (BitVec 4)) : (s.setLatch k).events = s.events := rfl
@[simp] theorem State.setLatch_latch (k : Option (BitVec 4)) : (s.setLatch k).latch = k := rfl
@[simp] theorem State.setLatch_mem (k : Option (BitVec 4)) : (s.setLatch k).mem = s.mem := rfl
@[simp] theorem State.setLatch_endAddr (k : Option (BitVec 4)) : (s.setLatch k).endAddr = s.endAddr := rfl
@[simp] theorem State.setLatch_cfg (k : Option (BitVec 4)) : (s.setLatch k).cfg = s.cfg := rfl
@[simp] theorem State.setLatch_draws (k : Option (BitVec 4)) : (s.setLatch k).draws = s.draws := rfl
@[simp] theorem State.setLatch_getV (k : Option (BitVec 4)) (r : RegIdx) : (s.setLatch k).getV r = s.getV r := rfl

/-! ### `setRun` -/

@[simp] theorem State.setRun_V (q : RunState) : (s.setRun q).V = s.V := rfl
@[simp] theorem State.setRun_DT (q : RunState) : (s.setRun q).DT = s.DT := rfl
@[simp] theorem State.setRun_ST (q : RunState) : (s.setRun q).ST = s.ST := rfl
@[simp] theorem State.setRun_I (q : RunState) : (s.setRun q).I = s.I := rfl
@[simp] theorem State.setRun_pc (q : RunState) : (s.setRun q).pc = s.pc := rfl
@[simp] theorem State.setRun_stack (q : RunState) : (s.setRun q).stack = s.stack := rfl
@[simp] theorem State.setRun_run (q : RunState) : (s.setRun q).run = q := rfl
@[simp] theorem State.setRun_pixels (q : RunState) : (s.setRun q).pixels = s.pixels := rfl
@[simp] theorem State.setRun_events (q : RunState) : (s.setRun q).events = s.events := rfl
@[simp] theorem State.setRun_latch (q : RunState) : (s.setRun q).latch = s.latch := rfl
@[simp] theorem State.setRun_mem (q : RunState) : (s.setRun q).mem = s.mem := rfl
@[simp] theorem State.setRun_endAddr (q : RunState) : (s.setRun q).endAddr = s.endAddr := rfl
@[simp] theorem State.setRun_cfg (q : RunState) : (s.setRun q).cfg = s.cfg := rfl
@[simp] theorem State.setRun_draws (q : RunState) : (s.setRun q).draws = s.draws := rfl
@[simp] theorem State.setRun_getV (q : RunState) (r : RegIdx) : (s.setRun q).getV r = s.getV r := rfl

/-! ### `setMem` -/

@[simp] theorem State.setMem_V (m : Memory) : (s.setMem m).V = s.V := rfl
@[simp] theorem State.setMem_DT (m : Memory) : (s.setMem m).DT = s.DT := rfl
@[simp] theorem State.setMem_ST (m : Memory) : (s.setMem m).ST = s.ST := rfl
@[simp] theorem State.setMem_I (m : Memory) : (s.setMem m).I = s.I := rfl
@[simp] theorem State.setMem_pc (m : Memory) : (s.setMem m).pc = s.pc := rfl
@[simp] theorem State.setMem_stack (m : Memory) : (s.setMem m).stack = s.stack := rfl
@[simp] theorem State.setMem_run (m : Memory) : (s.setMem m).run = s.run := rfl
@[simp] theorem State.setMem_pixels (m : Memory) : (s.setMem m).pixels = s.pixels := rfl
@[simp] theorem State.setMem_events (m : Memory) : (s.setMem m).events = s.events := rfl
@[simp] theorem State.setMem_latch (m : Memory) : (s.setMem m).latch = s.latch := rfl
@[simp] theorem State.setMem_mem (m : Memory) : (s.setMem m).mem = m := rfl
@[simp] theorem State.setMem_endAddr (m : Memory) : (s.setMem m).endAddr = s.endAddr := rfl
@[simp] theorem State.setMem_cfg (m : Memory) : (s.setMem m).cfg = s.cfg := rfl
@[simp] theorem State.setMem_draws (m : Memory) : (s.setMem m).draws = s.draws := rfl
@[simp] theorem State.setMem_getV (m : Memory) (r : RegIdx) : (s.setMem m).getV r = s.getV r := rfl

/-! ### `setScreen` -/

@[simp] theorem State.setScreen_V (g : Grid) (es : List Event) : (s.setScreen g es).V = s.V := rfl
@[simp] theorem State.setScreen_DT (g : Grid) (es : List Event) : (s.setScreen g es).DT = s.DT := rfl
@[simp] theorem State.setScreen_ST (g : Grid) (es : List Event) : (s.setScreen g es).ST = s.ST := rfl
@[simp] theorem State.setScreen_I (g : Grid) (es : List Event) : (s.setScreen g es).I = s.I := rfl
@[simp] theorem State.setScreen_pc (g : Grid) (es : List Event) : (s.setScreen g es).pc = s.pc := rfl
@[simp] theorem State.setScreen_stack (g : Grid) (es : List Event) : (s.setScreen g es).stack = s.stack := rfl
@[simp] theorem State.setScreen_run (g : Grid) (es : List Event) : (s.setScreen g es).run = s.run := rfl
@[simp] theorem State.setScreen_pixels (g : Grid) (es : List Event) : (s.setScreen g es).pixels = g := rfl
@[simp] theorem State.setScreen_events (g : Grid) (es : List Event) : (s.setScreen g es).events = es := rfl
@[simp] theorem State.setScreen_latch (g : Grid) (es : List Event) : (s.setScreen g es).latch = s.latch := rfl
@[simp] theorem State.setScreen_mem (g : Grid) (es : List Event) : (s.setScreen g es).mem = s.mem := rfl
@[simp] theorem State.setScreen_endAddr (g : Grid) (es : List Event) : (s.setScreen g es).endAddr = s.endAddr := rfl
@[simp] theorem State.setScreen_cfg (g : Grid) (es : List Event) : (s.setScreen g es).cfg = s.cfg := rfl
@[simp] theorem State.setScreen_draws (g : Grid) (es : List Event) : (s.setScreen g es).draws = s.draws := rfl
@[simp] theorem State.setScreen_getV (g : Grid) (es : List Event) (r : RegIdx) : (s.setScreen g es).getV r = s.getV r := rfl

/-! ### `countDraw` -/

@[simp] theorem State.countDraw_V : s.countDraw.V = s.V := rfl
@[simp] theorem State.countDraw_DT : s.countDraw.DT = s.DT := rfl
@[simp] theorem State.countDraw_ST : s.countDraw.ST = s.ST := rfl
@[simp] theorem State.countDraw_I : s.countDraw.I = s.I := rfl
@[simp] theorem State.countDraw_pc : s.countDraw.pc = s.pc := rfl
@[simp] theorem State.countDraw_stack : s.countDraw.stack = s.stack := rfl
@[simp] theorem State.countDraw_run : s.countDraw.run = s.run := rfl
@[simp] theorem State.countDraw_pixels : s.countDraw.pixels = s.pixels := rfl
@[simp] theorem State.countDraw_events : s.countDraw.events = s.events := rfl
@[simp] theorem State.countDraw_latch : s.countDraw.latch = s.latch := rfl
@[simp] theorem State.countDraw_mem : s.countDraw.mem = s.mem := rfl
@[simp] theorem State.countDraw_endAddr : s.countDraw.endAddr = s.endAddr := rfl
@[simp] theorem State.countDraw_cfg : s.countDraw.cfg = s.cfg := rfl
@[simp] theorem State.countDraw_draws : s.countDraw.draws = s.draws + 1 := rfl
@[simp] theorem State.countDraw_getV (r : RegIdx) : s.countDraw.getV r = s.getV r := rfl

/-! ### `setV` -/

@[simp] theorem State.setV_V (x : RegIdx) (b : Byte) : (s.setV x b).V = s.V.set x.val b := rfl
@[simp] theorem State.setV_DT (x : RegIdx) (b : Byte) : (s.setV x b).DT = s.DT := rfl
@[simp] theorem State.setV_ST (x : RegIdx) (b : Byte) : (s.setV x b).ST = s.ST := rfl
@[simp] theorem State.setV_I (x : RegIdx) (b : Byte) : (s.setV x b).I = s.I := rfl
@[simp] theorem State.setV_pc (x : RegIdx) (b : Byte) : (s.setV x b).pc = s.pc := rfl
@[simp] theorem State.setV_stack (x : RegIdx) (b : Byte) : (s.setV x b).stack = s.stack := rfl
@[simp] theorem State.setV_run (x : RegIdx) (b : Byte) : (s.setV x b).run = s.run := rfl
@[simp] theorem State.setV_pixels (x : RegIdx) (b : Byte) : (s.setV x b).pixels = s.pixels := rfl
@[simp] theorem State.setV_events (x : RegIdx) (b : Byte) : (s.setV x b).events = s.events := rfl
@[simp] theorem State.setV_latch (x : RegIdx) (b : Byte) : (s.setV x b).latch = s.latch := rfl
@[simp] theorem State.setV_mem (x : RegIdx) (b : Byte) : (s.setV x b).mem = s.mem := rfl
@[simp] theorem State.setV_endAddr (x : RegIdx) (b : Byte) : (s.setV x b).endAddr = s.endAddr := rfl
@[simp] theorem State.setV_cfg (x : RegIdx) (b : Byte) : (s.setV x b).cfg = s.cfg := rfl
@[simp] theorem State.setV_draws (x : RegIdx) (b : Byte) : (s.setV x b).draws = s.draws := rfl

/-! ### `advance` -/

@[simp] theorem State.advance_V : s.advance.V = s.V := rfl
@[simp] theorem State.advance_DT : s.advance.DT = s.DT := rfl
@[simp] theorem State.advance_ST : s.advance.ST = s.ST := rfl
@[simp] theorem State.advance_I : s.advance.I = s.I := rfl
@[simp] theorem State.advance_pc : s.advance.pc = s.pc + 2 := rfl
@[simp] theorem State.advance_stack : s.advance.stack = s.stack := rfl
@[simp] theorem State.advance_run : s.advance.run = s.run := rfl
@[simp] theorem State.advance_pixels : s.advance.pixels = s.pixels := rfl
@[simp] theorem State.advance_events : s.advance.events = s.events := rfl
@[simp] theorem State.advance_latch : s.advance.latch = s.latch := rfl
@[simp] theorem State.advance_mem : s.advance.mem = s.mem := rfl
@[simp] theorem State.advance_endAddr : s.advance.endAddr = s.endAddr := rfl
@[simp] theorem State.advance_cfg : s.advance.cfg = s.cfg := rfl
@[simp] theorem State.advance_draws : s.advance.draws = s.draws := rfl
@[simp] theorem State.advance_getV (r : RegIdx) : s.advance.getV r = s.getV r := rfl

/-! ### `skipIf` -/

@[simp] theorem State.skipIf_V (c : Bool) : (s.skipIf c).V = s.V := rfl
@[simp] theorem State.skipIf_DT (c : Bool) : (s.skipIf c).DT = s.DT := rfl
@[simp] theorem State.skipIf_ST (c : Bool) : (s.skipIf c).ST = s.ST := rfl
@[simp] theorem State.skipIf_I (c : Bool) : (s.skipIf c).I = s.I := rfl
@[simp] theorem State.skipIf_pc (c : Bool) : (s.skipIf c).pc = if c then s.pc + 4 else s.pc + 2 := rfl
@[simp] theorem State.skipIf_stack (c : Bool) : (s.skipIf c).stack = s.stack := rfl
@[simp] theorem State.skipIf_run (c : Bool) : (s.skipIf c).run = s.run := rfl
@[simp] theorem State.skipIf_pixels (c : Bool) : (s.skipIf c).pixels = s.pixels := rfl
@[simp] theorem State.skipIf_events (c : Bool) : (s.skipIf c).events = s.events := rfl
@[simp] theorem State.skipIf_latch (c : Bool) : (s.skipIf c).latch = s.latch := rfl
@[simp] theorem State.skipIf_mem (c : Bool) : (s.skipIf c).mem = s.mem := rfl
@[simp] theorem State.skipIf_endAddr (c : Bool) : (s.skipIf c).endAddr = s.endAddr := rfl
@[simp] theorem State.skipIf_cfg (c : Bool) : (s.skipIf c).cfg = s.cfg := rfl
@[simp] theorem State.skipIf_draws (c : Bool) : (s.skipIf c).draws = s.draws := rfl
@[simp] theorem State.skipIf_getV (c : Bool) (r : RegIdx) : (s.skipIf c).getV r = s.getV r := rfl

/-! ### `push` -/

@[simp] theorem State.push_V (v : Word) : (s.push v).V = s.V := rfl
@[simp] theorem State.push_DT (v : Word) : (s.push v).DT = s.DT := rfl
@[simp] theorem State.push_ST (v : Word) : (s.push v).ST = s.ST := rfl
@[simp] theorem State.push_I (v : Word) : (s.push v).I = s.I := rfl
@[simp] theorem State.push_pc (v : Word) : (s.push v).pc = s.pc := rfl
@[simp] theorem State.push_stack (v : Word) : (s.push v).stack = v :: s.stack := rfl
@[simp] theorem State.push_run (v : Word) : (s.push v).run = s.run := rfl
@[simp] theorem State.push_pixels (v : Word) : (s.push v).pixels = s.pixels := rfl
@[simp] theorem State.push_events (v : Word) : (s.push v).events = s.events := rfl
@[simp] theorem State.push_latch (v : Word) : (s.push v).latch = s.latch := rfl
@[simp] theorem State.push_mem (v : Word) : (s.push v).mem = s.mem := rfl
@[simp] theorem State.push_endAddr (v : Word) : (s.push v).endAddr = s.endAddr := rfl
@[simp] theorem State.push_cfg (v : Word) : (s.push v).cfg = s.cfg := rfl
@[simp] theorem State.push_draws (v : Word) : (s.push v).draws = s.draws := rfl
@[simp] theorem State.push_getV (v : Word) (r : RegIdx) : (s.push v).getV r = s.getV r := rfl

/-! ### `tick` -/

@[simp] theorem State.tick_V : s.tick.V = s.V := rfl
@[simp] theorem State.tick_DT : s.tick.DT = tickTimer s.DT := rfl
@[simp] theorem State.tick_ST : s.tick.ST = tickTimer s.ST := rfl
@[simp] theorem State.tick_I : s.tick.I = s.I := rfl
@[simp] theorem State.tick_pc : s.tick.pc = s.pc := rfl
@[simp] theorem State.tick_stack : s.tick.stack = s.stack := rfl
@[simp] theorem State.tick_run : s.tick.run = s.run := rfl
@[simp] theorem State.tick_pixels : s.tick.pixels = s.pixels := rfl
@[simp] theorem State.tick_events : s.tick.events = s.events := rfl
@[simp] theorem State.tick_latch : s.tick.latch = s.latch := rfl
@[simp] theorem State.tick_mem : s.tick.mem = s.mem := rfl
@[simp] theorem State.tick_endAddr : s.tick.endAddr = s.endAddr := rfl
@[simp] theorem State.tick_cfg : s.tick.cfg = s.cfg := rfl
@[simp] theorem State.tick_draws : s.tick.draws = s.draws := rfl
@[simp] theorem State.tick_getV (r : RegIdx) : s.tick.getV r = s.getV r := rfl

/-! ### `drain` -/

@[simp] theorem State.drain_V : s.drain.V = s.V := rfl
@[simp] theorem State.drain_DT : s.drain.DT = s.DT := rfl
@[simp] theorem State.drain_ST : s.drain.ST = s.ST := rfl
@[simp] theorem State.drain_I : s.drain.I = s.I := rfl
@[simp] theorem State.drain_pc : s.drain.pc = s.pc := rfl
@[simp] theorem State.drain_stack : s.drain.stack = s.stack := rfl
@[simp] theorem State.drain_run : s.drain.run = s.run := rfl
@[simp] theorem State.drain_pixels : s.drain.pixels = s.pixels := rfl
@[simp] theorem State.drain_events : s.drain.events = [] := rfl
@[simp] theorem State.drain_latch : s.drain.latch = s.latch := rfl
@[simp] theorem State.drain_mem : s.drain.mem = s.mem := rfl
@[simp] theorem State.drain_endAddr : s.drain.endAddr = s.endAddr := rfl
@[simp] theorem State.drain_cfg : s.drain.cfg = s.cfg := rfl
@[simp] theorem State.drain_draws : s.drain.draws = s.draws := rfl
@[simp] theorem State.drain_getV (r : RegIdx) : s.drain.getV r = s.getV r := rfl

/-! ### `pushKey` -/

@[simp] theorem State.pushKey_V (k : Option (BitVec 4)) : (s.pushKey k).V = s.V := rfl
@[simp] theorem State.pushKey_DT (k : Option (BitVec 4)) : (s.pushKey k).DT = s.DT := rfl
@[simp] theorem State.pushKey_ST (k : Option (BitVec 4)) : (s.pushKey k).ST = s.ST := rfl
@[simp] theorem State.pushKey_I (k : Option (BitVec 4)) : (s.pushKey k).I = s.I := rfl
@[simp] theorem State.pushKey_pc (k : Option (BitVec 4)) : (s.pushKey k).pc = s.pc := rfl
@[simp] theorem State.pushKey_stack (k : Option (BitVec 4)) : (s.pushKey k).stack = s.stack := rfl
@[simp] theorem State.pushKey_run (k : Option (BitVec 4)) : (s.pushKey k).run = s.run := rfl
@[simp] theorem State.pushKey_pixels (k : Option (BitVec 4)) : (s.pushKey k).pixels = s.pixels := rfl
@[simp] theorem State.pushKey_events (k : Option (BitVec 4)) : (s.pushKey k).events = s.events := rfl
@[simp] theorem State.pushKey_latch (k : Option (BitVec 4)) : (s.pushKey k).latch = k := rfl
@[simp] theorem State.pushKey_mem (k : Option (BitVec 4)) : (s.pushKey k).mem = s.mem := rfl
@[simp] theorem State.pushKey_endAddr (k : Option (BitVec 4)) : (s.pushKey k).endAddr = s.endAddr := rfl
@[simp] theorem State.pushKey_cfg (k : Option (BitVec 4)) : (s.pushKey k).cfg = s.cfg := rfl
@[simp] theorem State.pushKey_draws (k : Option (BitVec 4)) : (s.pushKey k).draws = s.draws := rfl
@[simp] theorem State.pushKey_getV (k : Option (BitVec 4)) (r : RegIdx) : (s.pushKey k).getV r = s.getV r := rfl

/-! ### `raise` -/

@[simp] theorem raise_V (k : FaultKind) (info : Nat) : (raise k info s).V = s.V := rfl
@[simp] theorem raise_DT (k : FaultKind) (info : Nat) : (raise k info s).DT = s.DT := rfl
@[simp] theorem raise_ST (k : FaultKind) (info : Nat) : (raise k info s).ST = s.ST := rfl
@[simp] theorem raise_I (k : FaultKind) (info : Nat) : (raise k info s).I = s.I := rfl
@[simp] theorem raise_pc (k : FaultKind) (info : Nat) : (raise k info s).pc = s.pc := rfl
@[simp] theorem raise_stack (k : FaultKind) (info : Nat) : (raise k info s).stack = s.stack := rfl
@[simp] theorem raise_run (k : FaultKind) (info : Nat) : (raise k info s).run = .halted k info := rfl
@[simp] theorem raise_pixels (k : FaultKind) (info : Nat) : (raise k info s).pixels = s.pixels := rfl
@[simp] theorem raise_events (k : FaultKind) (info : Nat) : (raise k info s).events = s.events := rfl
@[simp] theorem raise_latch (k : FaultKind) (info : Nat) : (raise k info s).latch = s.latch := rfl
@[simp] theorem raise_mem (k : FaultKind) (info : Nat) : (raise k info s).mem = s.mem := rfl
@[simp] theorem raise_endAddr (k : FaultKind) (info : Nat) : (raise k info s).endAddr = s.endAddr := rfl
@[simp] theorem raise_cfg (k : FaultKind) (info : Nat) : (raise k info s).cfg = s.cfg := rfl
@[simp] theorem raise_draws (k : FaultKind) (info : Nat) : (raise k info s).draws = s.draws := rfl
@[simp] theorem raise_getV (k : FaultKind) (info : Nat) (r : RegIdx) : (raise k info s).getV r = s.getV r := rfl

/-! ### Registers read back -/

theorem State.getV_setV (x r : RegIdx) (b : Byte) : (s.setV x b).getV r = if r = x then b else s.getV r := by
  simp only [State.getV, State.setV_V, Vector.getElem_set, Fin.ext_iff, eq_comm]

@[simp] theorem State.getV_setV_self (x : RegIdx) (b : Byte) : (s.setV x b).getV x = b := by
  simp [State.getV_setV]

theorem State.getV_setV_ne (x r : RegIdx) (b : Byte) (h : r ≠ x) : (s.setV x b).getV r = s.getV r := by
  simp [State.getV_setV, h]

/-! ### `relaunch` -/

@[simp] theorem State.relaunch_V (l : Launch) : (s.relaunch l).V = State.reset.V := rfl
@[simp] theorem State.relaunch_DT (l : Launch) : (s.relaunch l).DT = State.reset.DT := rfl
@[simp] theorem State.relaunch_ST (l : Launch) : (s.relaunch l).ST = State.reset.ST := rfl
@[simp] theorem State.relaunch_I (l : Launch) : (s.relaunch l).I = State.reset.I := rfl
@[simp] theorem State.relaunch_pc (l : Launch) : (s.relaunch l).pc = State.reset.pc := rfl
@[simp] theorem State.relaunch_stack (l : Launch) : (s.relaunch l).stack = State.reset.stack := rfl
@[simp] theorem State.relaunch_run (l : Launch) : (s.relaunch l).run = State.reset.run := rfl
@[simp] theorem State.relaunch_pixels (l : Launch) : (s.relaunch l).pixels = State.reset.pixels := rfl
@[simp] theorem State.relaunch_events (l : Launch) : (s.relaunch l).events = State.reset.events := rfl
@[simp] theorem State.relaunch_latch (l : Launch) : (s.relaunch l).latch = State.reset.latch := rfl
@[simp] theorem State.relaunch_mem (l : Launch) : (s.relaunch l).mem = l.image := rfl
@[simp] theorem State.relaunch_endAddr (l : Launch) : (s.relaunch l).endAddr = l.endAddr := rfl
@[simp] theorem State.relaunch_cfg (l : Launch) : (s.relaunch l).cfg = l.config := rfl
@[simp] theorem State.relaunch_draws (l : Launch) : (s.relaunch l).draws = s.draws := rfl

/-! ### `placeAtPc` -/

@[simp] theorem State.placeAtPc_V (op : Word) : (s.placeAtPc op).V = s.V := rfl
@[simp] theorem State.placeAtPc_DT (op : Word) : (s.placeAtPc op).DT = s.DT := rfl
@[simp] theorem State.placeAtPc_ST (op : Word) : (s.placeAtPc op).ST = s.ST := rfl
@[simp] theorem State.placeAtPc_I (op : Word) : (s.placeAtPc op).I = s.I := rfl
@[simp] theorem State.placeAtPc_pc (op : Word) : (s.placeAtPc op).pc = s.pc := rfl
@[simp] theorem State.placeAtPc_stack (op : Word) : (s.placeAtPc op).stack = s.stack := rfl
@[simp] theorem State.placeAtPc_run (op : Word) : (s.placeAtPc op).run = .running := rfl
@[simp] theorem State.placeAtPc_pixels (op : Word) : (s.placeAtPc op).pixels = s.pixels := rfl
@[simp] theorem State.placeAtPc_events (op : Word) : (s.placeAtPc op).events = s.events := rfl
@[simp] theorem State.placeAtPc_latch (op : Word) : (s.placeAtPc op).latch = s.latch := rfl
@[simp] theorem State.placeAtPc_mem (op : Word) :
    (s.placeAtPc op).mem = s.mem.writeList s.pc.toNat [hiByte op, loByte op] := rfl
@[simp] theorem State.placeAtPc_endAddr (op : Word) : (s.placeAtPc op).endAddr = max s.endAddr (s.pc.toNat + 2) := rfl
@[simp] theorem State.placeAtPc_cfg (op : Word) : (s.placeAtPc op).cfg = s.cfg := rfl
@[simp] theorem State.placeAtPc_draws (op : Word) : (s.placeAtPc op).draws = s.draws := rfl

end Sys2Proof.Machine
end

