-- ==== Sys2Proof/Laws/Memory.lean ====
section
/-! SUPPORT. The laws of the Memory Image: read after write, the canonical form, consecutive accesses, and the bounds
check. -/

namespace Sys2Proof.Machine

/-- The canonical form of a list of cells. -/
abbrev CellsWf (cs : List Host.Cell) : Prop :=
  cs.Pairwise (fun c d => c.1 < d.1) ∧ ∀ c ∈ cs, c.2 ≠ Memory.background c.1

theorem readCells_of_lt {a : Nat} {cs : List Host.Cell} (h : ∀ c ∈ cs, a < c.1) :
    readCells a cs = Memory.background a := by
  induction cs with
  | nil => rfl
  | cons c cs ih =>
    have hc := h c (by simp)
    rw [readCells, if_neg (by omega), ih (fun d hd => h d (by simp [hd]))]

theorem readCells_consCell (a k : Nat) (b : Byte) (cs : List Host.Cell) (h : ∀ c ∈ cs, a < c.1) :
    readCells k (consCell a b cs) = if k = a then b else readCells k cs := by
  unfold consCell
  split
  · split
    · subst k; simp [readCells_of_lt h, *]
    · rfl
  · rfl

/-- What a write makes every address read as. -/
theorem readCells_writeCells (a k : Nat) (b : Byte) (cs : List Host.Cell)
    (h : cs.Pairwise (fun c d => c.1 < d.1)) :
    readCells k (writeCells a b cs) = if k = a then b else readCells k cs := by
  induction cs with
  | nil => exact readCells_consCell a k b [] (by simp)
  | cons c cs ih =>
    obtain ⟨hc, hcs⟩ := List.pairwise_cons.mp h
    unfold writeCells
    split
    · refine readCells_consCell a k b (c :: cs) fun d hd => ?_
      rcases List.mem_cons.mp hd with rfl | hd
      · assumption
      · have := hc d hd; omega
    · split
      · rw [readCells_consCell a k b cs (fun d hd => by have := hc d hd; omega), readCells]
        split <;> simp_all
      · rw [readCells, ih hcs, readCells]
        split <;> split <;> simp_all

theorem mem_writeCells {a : Nat} {b : Byte} {cs : List Host.Cell} {d : Host.Cell}
    (h : d ∈ writeCells a b cs) : d.1 = a ∧ d.2 ≠ Memory.background a ∨ d ∈ cs := by
  induction cs with
  | nil =>
    unfold writeCells consCell at h
    split at h <;> simp_all
  | cons c cs ih =>
    unfold writeCells consCell at h
    split at h
    · split at h <;> simp_all
      rcases h with rfl | h <;> simp_all
    · split at h
      · split at h <;> simp_all
        rcases h with rfl | h <;> simp_all
      · rcases List.mem_cons.mp h with rfl | h
        · simp
        · rcases ih h with h | h <;> simp [h]

theorem writeCells_wf (a : Nat) (b : Byte) {cs : List Host.Cell} (h : CellsWf cs) : CellsWf (writeCells a b cs) := by
  refine ⟨?_, fun d hd => ?_⟩
  · induction cs with
    | nil => unfold writeCells consCell; split <;> simp
    | cons c cs ih =>
      obtain ⟨hp, hb⟩ := h
      obtain ⟨hc, hcs⟩ := List.pairwise_cons.mp hp
      have tail : CellsWf cs := ⟨hcs, fun d hd => hb d (by simp [hd])⟩
      unfold writeCells consCell
      split
      · split
        · exact hp
        · refine List.pairwise_cons.mpr ⟨fun d hd => ?_, hp⟩
          rcases List.mem_cons.mp hd with rfl | hd
          · assumption
          · have := hc d hd; show a < d.1; omega
      · split
        · split
          · exact hcs
          · refine List.pairwise_cons.mpr ⟨fun d hd => ?_, hcs⟩
            have := hc d hd; show a < d.1; omega
        · refine List.pairwise_cons.mpr ⟨fun d hd => ?_, ih tail⟩
          rcases mem_writeCells hd with ⟨h1, -⟩ | hd
          · omega
          · exact hc d hd
  · rcases mem_writeCells hd with ⟨h1, h2⟩ | hd
    · rw [h1]; exact h2
    · exact h.2 d hd

/-! ### One cell -/

theorem Memory.read_write {m : Memory} (h : m.wf) (a k : Nat) (b : Byte) :
    (m.write a b).read k = if k = a then b else m.read k :=
  readCells_writeCells a k b m.cells h.1

theorem Memory.write_wf {m : Memory} (h : m.wf) (a : Nat) (b : Byte) : (m.write a b).wf :=
  writeCells_wf a b h

/-! ### Consecutive cells -/

theorem Memory.writeList_wf {m : Memory} (h : m.wf) (a : Nat) (bs : List Byte) : (m.writeList a bs).wf := by
  induction bs generalizing m a with
  | nil => exact h
  | cons b bs ih => exact ih (Memory.write_wf h a b) (a + 1)

/-- An address outside the stored bytes reads as before. -/
theorem Memory.read_writeList_outside {m : Memory} (h : m.wf) (a k : Nat) (bs : List Byte)
    (hk : k < a ∨ a + bs.length ≤ k) : (m.writeList a bs).read k = m.read k := by
  induction bs generalizing m a with
  | nil => rfl
  | cons b bs ih =>
    simp only [List.length_cons] at hk
    rw [Memory.writeList, ih (Memory.write_wf h a b) (a + 1) (by omega), Memory.read_write h, if_neg (by omega)]

/-- The `k`-th stored byte reads back. -/
theorem Memory.read_writeList_inside {m : Memory} (h : m.wf) (a k : Nat) (bs : List Byte) (hk : k < bs.length) :
    (m.writeList a bs).read (a + k) = bs[k] := by
  induction bs generalizing m a k with
  | nil => simp at hk
  | cons b bs ih =>
    cases k with
    | zero =>
      rw [Memory.writeList, Memory.read_writeList_outside (Memory.write_wf h a b) _ _ _ (by omega),
        Memory.read_write h]
      simp
    | succ k =>
      have := ih (Memory.write_wf h a b) (a + 1) k (by simpa using hk)
      rw [Memory.writeList, show a + (k + 1) = a + 1 + k by omega, this]
      simp

theorem Memory.readList_length (m : Memory) (a n : Nat) : (m.readList a n).length = n := by
  induction n generalizing a with
  | zero => rfl
  | succ n ih => simp [Memory.readList, ih]

theorem Memory.readList_getElem (m : Memory) (a n k : Nat) (hk : k < n) :
    (m.readList a n)[k]'(by rw [Memory.readList_length]; exact hk) = m.read (a + k) := by
  induction n generalizing a k with
  | zero => omega
  | succ n ih =>
    cases k with
    | zero => rfl
    | succ k =>
      have := ih (a + 1) k (by omega)
      simp only [Memory.readList, List.getElem_cons_succ, this]
      congr 1
      omega

/-! ### The bounds check (rule R42) -/

/-- The check passes exactly when every byte lies below `END`. -/
theorem firstAtOrAbove_eq_none (lim a n : Nat) : firstAtOrAbove lim a n = none ↔ n = 0 ∨ a + n ≤ lim := by
  induction n generalizing a with
  | zero => simp [firstAtOrAbove]
  | succ n ih =>
    unfold firstAtOrAbove
    split
    · constructor
      · intro h; cases h
      · intro h; omega
    · rw [ih]; omega

/-- The check reports the lowest address at or above `END`. -/
theorem firstAtOrAbove_eq_some (lim a n bad : Nat) :
    firstAtOrAbove lim a n = some bad ↔ n ≠ 0 ∧ lim < a + n ∧ bad = max a lim := by
  induction n generalizing a with
  | zero => simp [firstAtOrAbove]
  | succ n ih =>
    unfold firstAtOrAbove
    split
    · constructor
      · intro h; cases h; omega
      · intro h; simp; omega
    · rw [ih]; omega

/-- A read either gives all its bytes, all below `END`, or the lowest offending address. -/
theorem State.memRead_cases (s : State) (a n : Nat) :
    (n = 0 ∨ a + n ≤ s.endAddr) ∧ s.memRead a n = .ok (s.mem.readList a n) ∨
    n ≠ 0 ∧ s.endAddr < a + n ∧ s.memRead a n = .error (max a s.endAddr) := by
  unfold State.memRead
  split
  · rename_i bad h
    obtain ⟨h1, h2, h3⟩ := (firstAtOrAbove_eq_some s.endAddr a n bad).mp h
    exact .inr ⟨h1, h2, by rw [h3]⟩
  · rename_i h
    exact .inl ⟨(firstAtOrAbove_eq_none s.endAddr a n).mp h, rfl⟩

/-- A write either stores all its bytes, all below `END`, or reports the lowest offending address. -/
theorem State.memWrite_cases (s : State) (a : Nat) (bs : List Byte) :
    (bs.length = 0 ∨ a + bs.length ≤ s.endAddr) ∧ s.memWrite a bs = .ok (s.setMem (s.mem.writeList a bs)) ∨
    bs.length ≠ 0 ∧ s.endAddr < a + bs.length ∧ s.memWrite a bs = .error (max a s.endAddr) := by
  unfold State.memWrite
  split
  · rename_i bad h
    obtain ⟨h1, h2, h3⟩ := (firstAtOrAbove_eq_some s.endAddr a bs.length bad).mp h
    exact .inr ⟨h1, h2, by rw [h3]⟩
  · rename_i h
    exact .inl ⟨(firstAtOrAbove_eq_none s.endAddr a bs.length).mp h, rfl⟩

/-- A fetch gives the big-endian opcode when both bytes lie below `END`, else the lowest offending address. -/
theorem State.fetch_cases (s : State) :
    s.pc.toNat + 2 ≤ s.endAddr ∧
        s.fetch = .ok (opcodeOf (s.mem.read s.pc.toNat) (s.mem.read (s.pc.toNat + 1))) ∨
      s.endAddr < s.pc.toNat + 2 ∧ s.fetch = .error (max s.pc.toNat s.endAddr) := by
  unfold State.fetch
  split
  · rename_i bad h
    obtain ⟨-, h2, h3⟩ := (firstAtOrAbove_eq_some s.endAddr _ 2 bad).mp h
    exact .inr ⟨h2, by rw [h3]⟩
  · rename_i h
    exact .inl ⟨by have := (firstAtOrAbove_eq_none s.endAddr _ 2).mp h; omega, rfl⟩

theorem reset_memory_wf : State.reset.mem.wf := by
  exact ⟨List.Pairwise.nil, fun c h => by cases h⟩

end Sys2Proof.Machine
end

