-- ==== Sys2Proof/Laws/Ops.lean ====
section
/-! SUPPORT. One law for each shared operation of the meanings: everything it can do. -/

namespace Sys2Proof.Machine

variable (s : State)

/-! ### Registers -/

/-- Flag first, destination second: with `x = 15` the destination's value stays (rule R121). -/
@[simp] theorem State.getV_setFlagThen (flag result : Byte) (x r : RegIdx) :
    (s.setFlagThen flag x result).getV r = if r = x then result else if r = VF then flag else s.getV r := by
  simp only [State.setFlagThen, State.getV_setV]

/-- A batch load writes register `k + j` with byte `j`, and no other register. -/
theorem loadFrom_getElem (V : Vector Byte 16) (k : Nat) (bs : List Byte) (r : Nat) (hr : r < 16) :
    (loadFrom V k bs)[r] = if h : k ≤ r ∧ r - k < bs.length then bs[r - k]'h.2 else V[r] := by
  induction bs generalizing V k with
  | nil => simp [loadFrom]
  | cons b bs ih =>
    rw [loadFrom, ih]
    by_cases h1 : k + 1 ≤ r ∧ r - (k + 1) < bs.length
    · have h2 : k ≤ r ∧ r - k < (b :: bs).length := ⟨by omega, by simp; omega⟩
      rw [dif_pos h1, dif_pos h2]
      have h3 : r - k = (r - (k + 1)) + 1 := by omega
      simp only [h3, List.getElem_cons_succ]
    · rw [dif_neg h1, Vector.getElem_setIfInBounds]
      by_cases h4 : k = r
      · subst h4; simp
      · rw [if_neg h4, dif_neg]
        simp only [List.length_cons]
        omega

@[simp] theorem State.regsUpTo_length (x : RegIdx) : (s.regsUpTo x).length = x.val + 1 := by
  simp [State.regsUpTo]

theorem State.regsUpTo_getElem (x r : RegIdx) (h : r.val ≤ x.val) :
    (s.regsUpTo x)[r.val]'(by rw [State.regsUpTo_length]; omega) = s.getV r := by
  simp [State.regsUpTo, State.getV]

/-! ### Operand References (rule R15) -/

@[simp] theorem OperandRef.get_v (x : RegIdx) : OperandRef.get (.v x) s = (s.getV x, s) := rfl
@[simp] theorem OperandRef.get_delay : OperandRef.get .delay s = (s.DT, s) := rfl
@[simp] theorem OperandRef.get_sound : OperandRef.get .sound s = (s.ST, s) := rfl
@[simp] theorem OperandRef.get_key_snd : (OperandRef.get .key s).2 = s.setLatch none := rfl

theorem OperandRef.get_key_some {k : BitVec 4} (h : s.latch = some k) :
    (OperandRef.get .key s).1 = k.setWidth 8 := by
  simp [OperandRef.get, State.takeKey, h]

theorem OperandRef.get_key_none (h : s.latch = none) : (OperandRef.get .key s).1 = Config.noKey := by
  simp [OperandRef.get, State.takeKey, h]

@[simp] theorem OperandRef.set_v (x : RegIdx) (b : Byte) : OperandRef.set (.v x) b s rfl = s.setV x b := rfl
@[simp] theorem OperandRef.set_delay (b : Byte) : OperandRef.set .delay b s rfl = s.setDT b := rfl
@[simp] theorem OperandRef.set_sound (b : Byte) : OperandRef.set .sound b s rfl = s.setST b := rfl
@[simp] theorem SkipOperand.value_imm (nn : Byte) : SkipOperand.value (.imm nn) s = (nn, s) := rfl
@[simp] theorem SkipOperand.value_ref (r : OperandRef) : SkipOperand.value (.ref r) s = r.get s := rfl

/-! ### Storing (rules R44, R142, R143) -/

/-- A storing instruction either stores all its bytes, all below `END`, and advances, or raises
`AddressOutOfBounds` at the lowest offending address and does nothing else. -/
theorem storeAtI_cases (bs : List Byte) :
    (bs.length = 0 ∨ s.base + bs.length ≤ s.endAddr) ∧
        storeAtI bs s = (s.setMem (s.mem.writeList s.base bs)).advance ∨
      bs.length ≠ 0 ∧ s.endAddr < s.base + bs.length ∧
        storeAtI bs s = raise .addressOutOfBounds (max s.base s.endAddr) s := by
  unfold storeAtI
  rcases s.memWrite_cases s.base bs with ⟨h, e⟩ | ⟨h1, h2, e⟩
  · exact .inl ⟨h, by rw [e]⟩
  · exact .inr ⟨h1, h2, by rw [e]⟩

/-! ### The display -/

theorem Grid.get_put (g : Grid) (x x' : Fin 64) (y y' : Fin 32) (b : Bool) :
    Grid.get (Grid.put g x y b) x' y' = if x' = x ∧ y' = y then b else Grid.get g x' y' := by
  unfold Grid.get Grid.put
  rw [Vector.getElem_set]
  by_cases hy : y.val = y'.val
  · rw [if_pos hy, Vector.getElem_set]
    by_cases hx : x.val = x'.val
    · rw [if_pos hx, if_pos ⟨Fin.ext hx.symm, Fin.ext hy.symm⟩]
    · rw [if_neg hx, if_neg (fun h => hx (by rw [h.1]))]
      simp only [hy]
  · rw [if_neg hy, if_neg (fun h => hy (by rw [h.2]))]

@[simp] theorem Grid.get_blank (x : Fin 64) (y : Fin 32) : Grid.get Grid.blank x y = false := by
  simp [Grid.get, Grid.blank]

/-- Two grids that agree on every pixel are equal. -/
theorem Grid.ext_get {g h : Grid} (e : ∀ x y, Grid.get g x y = Grid.get h x y) : g = h := by
  apply Vector.ext
  intro y hy
  apply Vector.ext
  intro x hx
  exact e ⟨x, hx⟩ ⟨y, hy⟩

theorem Canvas.draw_nil (c : Canvas) : c.draw [] = c := rfl

theorem Canvas.draw_cons (c : Canvas) (p : Fin 64 × Fin 32) (ps : List (Fin 64 × Fin 32)) :
    c.draw (p :: ps) = (c.toggle p).draw ps := rfl

/-- The event of a toggle carries the state the pixel has after it. -/
theorem Canvas.toggle_replay (c : Canvas) (p : Fin 64 × Fin 32) :
    (Event.pixel p.1 p.2 (!(Grid.get c.pixels p.1 p.2))).apply c.pixels = (c.toggle p).pixels := rfl

theorem replay_append (es fs : List Event) (g : Grid) : replay (es ++ fs) g = replay fs (replay es g) :=
  List.foldl_append

end Sys2Proof.Machine
end

