-- ==== Sys2Proof/Laws/Display.lean ====
section
/-! SUPPORT. The sprite compositor, said once: which pixels a draw toggles, its collision flag, its events, and what
they replay to (rules R151, R152 of spec/44_display.md). -/

namespace Sys2Proof.Machine

theorem Canvas.toggle_get (c : Canvas) (p : Fin 64 × Fin 32) (a : Fin 64) (b : Fin 32) :
    Grid.get (c.toggle p).pixels a b =
      if a = p.1 ∧ b = p.2 then !(Grid.get c.pixels a b) else Grid.get c.pixels a b := by
  simp only [Canvas.toggle, Grid.get_put]
  split
  · rename_i h
    obtain ⟨rfl, rfl⟩ := h
    rfl
  · rfl

/-- A draw flips exactly its targets, each once. -/
theorem Canvas.draw_get (c : Canvas) (ps : List (Fin 64 × Fin 32)) (hn : ps.Nodup) (a : Fin 64) (b : Fin 32) :
    Grid.get (c.draw ps).pixels a b =
      if (a, b) ∈ ps then !(Grid.get c.pixels a b) else Grid.get c.pixels a b := by
  induction ps generalizing c with
  | nil => simp [Canvas.draw]
  | cons p ps ih =>
    obtain ⟨h1, h2⟩ := List.nodup_cons.mp hn
    rw [Canvas.draw_cons, ih _ h2, Canvas.toggle_get]
    by_cases hp : (a, b) = p
    · subst hp; simp [h1]
    · have : ¬ (a = p.1 ∧ b = p.2) := fun h => hp (Prod.ext h.1 h.2)
      simp [hp, this]

/-- A draw collides exactly when one of its targets was set before it. -/
theorem Canvas.draw_hit (c : Canvas) (ps : List (Fin 64 × Fin 32)) (hn : ps.Nodup) :
    (c.draw ps).hit = (c.hit || ps.any fun p => Grid.get c.pixels p.1 p.2) := by
  induction ps generalizing c with
  | nil => simp [Canvas.draw]
  | cons p ps ih =>
    obtain ⟨h1, h2⟩ := List.nodup_cons.mp hn
    rw [Canvas.draw_cons, ih _ h2, List.any_cons, ← Bool.or_assoc]
    congr 1
    rw [Bool.eq_iff_iff]
    simp only [List.any_eq_true]
    refine exists_congr fun q => and_congr_right fun hq => ?_
    rw [Canvas.toggle_get, if_neg]
    intro h
    exact h1 (by rw [← Prod.ext h.1 h.2]; exact hq)

/-- A draw emits one event for each target, in order, with the state the pixel has after it. -/
theorem Canvas.draw_events (c : Canvas) (ps : List (Fin 64 × Fin 32)) (hn : ps.Nodup) :
    (c.draw ps).events = c.events ++ ps.map fun p => .pixel p.1 p.2 (!(Grid.get c.pixels p.1 p.2)) := by
  induction ps generalizing c with
  | nil => simp [Canvas.draw]
  | cons p ps ih =>
    obtain ⟨h1, h2⟩ := List.nodup_cons.mp hn
    rw [Canvas.draw_cons, ih _ h2, List.map_cons]
    simp only [Canvas.toggle, List.append_assoc, List.cons_append, List.nil_append]
    congr 2
    apply List.map_congr_left
    intro q hq
    rw [Grid.get_put, if_neg]
    intro h
    exact h1 (by rw [← Prod.ext h.1 h.2]; exact hq)

theorem mem_rowTargets (x0 y : Nat) (row : Byte) (a : Fin 64) (b : Fin 32) :
    (a, b) ∈ rowTargets x0 y row ↔
      ∃ q, q < 8 ∧ row.getLsbD q = true ∧ a.val = (x0 + (7 - q)) % 64 ∧ b.val = y % 32 := by
  simp only [rowTargets, List.mem_filterMap, List.mem_range]
  constructor
  · rintro ⟨q, hq, h⟩
    split at h
    · cases h; exact ⟨q, hq, ‹_›, rfl, rfl⟩
    · cases h
  · rintro ⟨q, hq, h, h1, h2⟩
    exact ⟨q, hq, by rw [if_pos h]; congr 2 <;> exact Fin.ext (by simp [*])⟩

theorem mem_spriteTargets (x0 y : Nat) (rows : List Byte) (a : Fin 64) (b : Fin 32) :
    (a, b) ∈ spriteTargets x0 y rows ↔
      ∃ p, ∃ h : p < rows.length, ∃ q, q < 8 ∧ rows[p].getLsbD q = true ∧ a.val = (x0 + (7 - q)) % 64 ∧
        b.val = (y + p) % 32 := by
  induction rows generalizing y with
  | nil => simp [spriteTargets]
  | cons r rs ih =>
    rw [spriteTargets, List.mem_append, mem_rowTargets, ih]
    constructor
    · rintro (⟨q, h⟩ | ⟨p, hp, q, h1, h2, h3, h4⟩)
      · exact ⟨0, by simp, q, by simpa using h⟩
      · exact ⟨p + 1, by simpa using hp, q, h1, by simpa using h2, h3, by rw [h4]; congr 1; omega⟩
    · rintro ⟨p, hp, q, h1, h2, h3, h4⟩
      cases p with
      | zero => exact .inl ⟨q, h1, by simpa using h2, h3, by simpa using h4⟩
      | succ p => exact .inr ⟨p, by simpa using hp, q, h1, by simpa using h2, h3, by rw [h4]; congr 1; omega⟩

theorem rowTargets_nodup (x0 y : Nat) (row : Byte) : (rowTargets x0 y row).Nodup := by
  refine List.Pairwise.filterMap _ ?_
    (List.nodup_range.imp_of_mem (S := fun q q' => q < 8 ∧ q' < 8 ∧ q ≠ q') ?_)
  · intro q q' ⟨h1, h2, h3⟩ a ha b hb hab
    split at ha <;> split at hb <;> simp_all
    subst ha
    have := congrArg (fun p => p.1.val) hb
    simp at this
    omega
  · intro q q' h1 h2 h
    exact ⟨List.mem_range.mp h1, List.mem_range.mp h2, h⟩

/-- No pixel is toggled twice by one draw: at most 32 rows wrap onto different rows. -/
theorem spriteTargets_nodup (x0 y : Nat) (rows : List Byte) (h : rows.length ≤ 32) :
    (spriteTargets x0 y rows).Nodup := by
  induction rows generalizing y with
  | nil => simp [spriteTargets]
  | cons r rs ih =>
    rw [spriteTargets]
    simp at h
    refine (rowTargets_nodup x0 y r).append (ih (y + 1) (by omega)) ?_
    rintro ⟨a, b⟩ h1 h2
    obtain ⟨q, -, -, -, e⟩ := (mem_rowTargets _ _ _ _ _).mp h1
    obtain ⟨p, hp, q', -, -, -, e'⟩ := (mem_spriteTargets _ _ _ _ _).mp h2
    omega

/-- The targets of the bytes a draw reads are the pixels of `spriteCovers`. -/
theorem spriteCovers_iff (s : State) (x y : RegIdx) (n : Nat) (a : Fin 64) (b : Fin 32) :
    spriteCovers s x y n a b ↔
      (a, b) ∈ spriteTargets (s.getV x).toNat (s.getV y).toNat (s.mem.readList s.I.toNat n) := by
  rw [mem_spriteTargets]
  unfold spriteCovers
  constructor
  · rintro ⟨p, q, h1, h2, h3, h4, h5⟩
    exact ⟨p, by rw [Memory.readList_length]; exact h1, q, h2,
      by rw [Memory.readList_getElem _ _ _ _ h1]; exact h3, h4, h5⟩
  · rintro ⟨p, hp, q, h2, h3, h4, h5⟩
    rw [Memory.readList_length] at hp
    rw [Memory.readList_getElem _ _ _ _ hp] at h3
    exact ⟨p, q, hp, h2, h3, h4, h5⟩

/-- The targets of `n` bytes read from memory, row by row. -/
theorem spriteTargets_readList (x0 y : Nat) (m : Memory) (a n : Nat) :
    spriteTargets x0 y (m.readList a n) =
      (List.range n).flatMap fun p => rowTargets x0 (y + p) (m.read (a + p)) := by
  induction n generalizing a y with
  | zero => rfl
  | succ n ih =>
    rw [Memory.readList, spriteTargets, ih, List.range_succ_eq_map, List.flatMap_cons, List.flatMap_map]
    congr 1
    apply List.flatMap_congr
    intro p _
    rw [show y + 1 + p = y + (p + 1) by omega, show a + 1 + p = a + (p + 1) by omega]

/-- The events of a draw replay its toggles. -/
theorem Canvas.draw_replay (c : Canvas) (g : Grid) (ps : List (Fin 64 × Fin 32))
    (h : replay c.events g = c.pixels) : replay (c.draw ps).events g = (c.draw ps).pixels := by
  induction ps generalizing c with
  | nil => exact h
  | cons p ps ih =>
    refine ih _ ?_
    simp only [Canvas.toggle, replay_append, h]
    rfl

end Sys2Proof.Machine
end

