-- ==== Sys2Proof/Laws/PerInstr.lean ====
section
/-! SUPPORT. A statement for every instruction, one lemma a constructor: its opcode lies in its row of table T-OPC
(rule R74), that is, `(opcode & mask) == match`. -/

namespace Sys2Proof

/-- The mask of an instruction's row of table T-OPC. -/
def rowMask : Instr → Word
  | .cls | .ret => 0xFFFF
  | .jp _ | .call _ | .seVN _ _ | .sneVN _ _ | .seVV _ _ | .ldVN _ _ | .addVN _ _ | .sneVV _ _ | .ldIN _
  | .rndVN _ _ | .drw _ _ _ => 0xF000
  | .ldVV _ _ | .orVV _ _ | .andVV _ _ | .xorVV _ _ | .addVV _ _ | .subVV _ _ | .shrVV _ _ | .subnVV _ _ => 0xF00F
  | .skp _ | .sknp _ | .ldVDT _ | .ldVK _ | .ldDTV _ | .ldSTV _ | .addIV _ | .bcd _ | .dump _ | .load _ => 0xF0FF

/-- The match value of an instruction's row of table T-OPC. -/
def rowMatch : Instr → Word
  | .cls => 0x00E0
  | .ret => 0x00EE
  | .jp _ => 0x1000
  | .call _ => 0x2000
  | .seVN _ _ => 0x3000
  | .sneVN _ _ => 0x4000
  | .seVV _ _ => 0x5000
  | .ldVN _ _ => 0x6000
  | .addVN _ _ => 0x7000
  | .ldVV _ _ => 0x8000
  | .orVV _ _ => 0x8001
  | .andVV _ _ => 0x8002
  | .xorVV _ _ => 0x8003
  | .addVV _ _ => 0x8004
  | .subVV _ _ => 0x8005
  | .shrVV _ _ => 0x8006
  | .subnVV _ _ => 0x8007
  | .sneVV _ _ => 0x9000
  | .ldIN _ => 0xA000
  | .rndVN _ _ => 0xC000
  | .drw _ _ _ => 0xD000
  | .skp _ => 0xE09E
  | .sknp _ => 0xE0A1
  | .ldVDT _ => 0xF007
  | .ldVK _ => 0xF00A
  | .ldDTV _ => 0xF015
  | .ldSTV _ => 0xF018
  | .addIV _ => 0xF01E
  | .bcd _ => 0xF033
  | .dump _ => 0xF055
  | .load _ => 0xF065

end Sys2Proof

namespace Sys2Proof.Laws.TableRow

/-- The instruction's opcode lies in its row of table T-OPC. -/
def Statement (i : Instr) : Prop := encode i &&& rowMask i = rowMatch i

theorem formNNN_getLsbD (f : Nibble) (nnn : BitVec 12) (k : Nat) :
    (formNNN f nnn).getLsbD k = if k < 12 then nnn.getLsbD k else f.getLsbD (k - 12) :=
  BitVec.getLsbD_append

theorem formXNN_getLsbD (f : Nibble) (x : RegIdx) (nn : Byte) (k : Nat) :
    (formXNN f x nn).getLsbD k =
      if k < 8 then nn.getLsbD k else (f ++ (BitVec.ofFin x : Nibble)).getLsbD (k - 8) :=
  BitVec.getLsbD_append

theorem formXYN_getLsbD (f : Nibble) (x y : RegIdx) (n : Nibble) (k : Nat) :
    (formXYN f x y n).getLsbD k =
      if k < 4 then n.getLsbD k
      else (f ++ (BitVec.ofFin x : Nibble) ++ (BitVec.ofFin y : Nibble)).getLsbD (k - 4) :=
  BitVec.getLsbD_append

theorem and_F000 (op : Word) : op &&& 0xF000 = formNNN (famField op) 0 := by
  apply BitVec.eq_of_getLsbD_eq
  intro k hk
  rw [formNNN_getLsbD, BitVec.getLsbD_and, famField, BitVec.getLsbD_extractLsb']
  interval_cases k <;> simp

theorem and_F0FF (op : Word) : op &&& 0xF0FF = formXNN (famField op) 0 (nnField op) := by
  apply BitVec.eq_of_getLsbD_eq
  intro k hk
  rw [formXNN_getLsbD, BitVec.getLsbD_append, BitVec.getLsbD_and, famField, nnField, BitVec.getLsbD_extractLsb',
    BitVec.getLsbD_extractLsb']
  interval_cases k <;> simp

theorem and_F00F (op : Word) : op &&& 0xF00F = formXYN (famField op) 0 0 (nField op) := by
  apply BitVec.eq_of_getLsbD_eq
  intro k hk
  rw [formXYN_getLsbD, BitVec.getLsbD_append, BitVec.getLsbD_append, BitVec.getLsbD_and, famField, nField,
    BitVec.getLsbD_extractLsb', BitVec.getLsbD_extractLsb']
  interval_cases k <;> simp

theorem nnn_row (f : Nibble) (nnn : BitVec 12) : formNNN f nnn &&& 0xF000 = formNNN f 0 := by
  rw [and_F000, famField_formNNN]

theorem xnn_row (f : Nibble) (x : RegIdx) (nn : Byte) : formXNN f x nn &&& 0xF000 = formNNN f 0 := by
  rw [and_F000, famField_formXNN]

theorem xyn_row (f : Nibble) (x y : RegIdx) (n : Nibble) : formXYN f x y n &&& 0xF000 = formNNN f 0 := by
  rw [and_F000, famField_formXYN]

theorem xss_row (f : Nibble) (x : RegIdx) (nn : Byte) : formXNN f x nn &&& 0xF0FF = formXNN f 0 nn := by
  rw [and_F0FF, famField_formXNN, nnField_formXNN]

theorem xys_row (f : Nibble) (x y : RegIdx) (n : Nibble) : formXYN f x y n &&& 0xF00F = formXYN f 0 0 n := by
  rw [and_F00F, famField_formXYN, nField_formXYN]

theorem cls : Statement .cls :=
  by unfold Statement; decide

theorem ret : Statement .ret :=
  by unfold Statement; decide

theorem jp (nnn : BitVec 12) : Statement (.jp nnn) :=
  (nnn_row 0x1 nnn).trans rfl

theorem call (nnn : BitVec 12) : Statement (.call nnn) :=
  (nnn_row 0x2 nnn).trans rfl

theorem seVN (x : RegIdx) (nn : Byte) : Statement (.seVN x nn) :=
  (xnn_row 0x3 x nn).trans rfl

theorem sneVN (x : RegIdx) (nn : Byte) : Statement (.sneVN x nn) :=
  (xnn_row 0x4 x nn).trans rfl

theorem seVV (x y : RegIdx) : Statement (.seVV x y) :=
  (xyn_row 0x5 x y 0x0).trans rfl

theorem ldVN (x : RegIdx) (nn : Byte) : Statement (.ldVN x nn) :=
  (xnn_row 0x6 x nn).trans rfl

theorem addVN (x : RegIdx) (nn : Byte) : Statement (.addVN x nn) :=
  (xnn_row 0x7 x nn).trans rfl

theorem ldVV (x y : RegIdx) : Statement (.ldVV x y) :=
  (xys_row 0x8 x y 0x0).trans rfl

theorem orVV (x y : RegIdx) : Statement (.orVV x y) :=
  (xys_row 0x8 x y 0x1).trans rfl

theorem andVV (x y : RegIdx) : Statement (.andVV x y) :=
  (xys_row 0x8 x y 0x2).trans rfl

theorem xorVV (x y : RegIdx) : Statement (.xorVV x y) :=
  (xys_row 0x8 x y 0x3).trans rfl

theorem addVV (x y : RegIdx) : Statement (.addVV x y) :=
  (xys_row 0x8 x y 0x4).trans rfl

theorem subVV (x y : RegIdx) : Statement (.subVV x y) :=
  (xys_row 0x8 x y 0x5).trans rfl

theorem shrVV (x y : RegIdx) : Statement (.shrVV x y) :=
  (xys_row 0x8 x y 0x6).trans rfl

theorem subnVV (x y : RegIdx) : Statement (.subnVV x y) :=
  (xys_row 0x8 x y 0x7).trans rfl

theorem sneVV (x y : RegIdx) : Statement (.sneVV x y) :=
  (xyn_row 0x9 x y 0x0).trans rfl

theorem ldIN (nnn : BitVec 12) : Statement (.ldIN nnn) :=
  (nnn_row 0xA nnn).trans rfl

theorem rndVN (x : RegIdx) (nn : Byte) : Statement (.rndVN x nn) :=
  (xnn_row 0xC x nn).trans rfl

theorem drw (x y : RegIdx) (n : Nat) : Statement (.drw x y n) :=
  (xyn_row 0xD x y (BitVec.ofNat 4 n)).trans rfl

theorem skp (x : RegIdx) : Statement (.skp x) :=
  (xss_row 0xE x 0x9E).trans rfl

theorem sknp (x : RegIdx) : Statement (.sknp x) :=
  (xss_row 0xE x 0xA1).trans rfl

theorem ldVDT (x : RegIdx) : Statement (.ldVDT x) :=
  (xss_row 0xF x 0x07).trans rfl

theorem ldVK (x : RegIdx) : Statement (.ldVK x) :=
  (xss_row 0xF x 0x0A).trans rfl

theorem ldDTV (x : RegIdx) : Statement (.ldDTV x) :=
  (xss_row 0xF x 0x15).trans rfl

theorem ldSTV (x : RegIdx) : Statement (.ldSTV x) :=
  (xss_row 0xF x 0x18).trans rfl

theorem addIV (x : RegIdx) : Statement (.addIV x) :=
  (xss_row 0xF x 0x1E).trans rfl

theorem bcd (x : RegIdx) : Statement (.bcd x) :=
  (xss_row 0xF x 0x33).trans rfl

theorem dump (x : RegIdx) : Statement (.dump x) :=
  (xss_row 0xF x 0x55).trans rfl

theorem load (x : RegIdx) : Statement (.load x) :=
  (xss_row 0xF x 0x65).trans rfl

end Sys2Proof.Laws.TableRow
end

