-- ==== Sys2Proof/Laws/Step.lean ====
section
/-! SUPPORT. What `exec` and `step` can do, said once: every instruction answers a next state, and a step is one of
five cases. -/

namespace Sys2Proof.Machine

/-- Every instruction answers a next state, in every state. -/
theorem exec_answers_next (i : Instr) (s : State) : ∃ t, exec i s = .next t := by
  cases i <;> exact ⟨_, rfl⟩

/-- The state an instruction leaves. -/
def execState (i : Instr) (s : State) : State :=
  match exec i s with
  | .next t => t
  | .fault _ => s
  | .refused _ => s

theorem exec_eq_next (i : Instr) (s : State) : exec i s = .next (execState i s) := by
  obtain ⟨t, h⟩ := exec_answers_next i s
  rw [execState, h]

/-- What an instruction can do: it raises and changes nothing but `run`, or it changes only the registers of
`regsWritten`, the parts of `partsWritten`, and `pc`. -/
theorem exec_raises_or_frames (i : Instr) (s : State) :
    ∃ t, exec i s = .next t ∧ ((∃ k info, t = raise k info s) ∨ Frame (regsWritten i) (partsWritten i) s t) := by
  cases i
  case ret =>
    cases h : s.stack with
    | nil => exact ⟨raise .stackUnderflow 0x00EE s, by simp [exec, execRet, h]; rfl, .inl ⟨_, _, rfl⟩⟩
    | cons top rest =>
      exact ⟨(s.setStack rest).setPc top, by simp [exec, execRet, h],
        .inr ⟨fun r _ => rfl, fun p hp => by cases p <;> simp [Part.same, partsWritten] at *⟩⟩
  case call n =>
    refine ⟨_, rfl, ?_⟩
    split
    · exact .inl ⟨_, _, rfl⟩
    · exact .inr ⟨fun r _ => rfl, fun p hp => by cases p <;> simp [Part.same, partsWritten] at *⟩
  case addIV x =>
    refine ⟨_, rfl, ?_⟩
    split
    · exact .inl ⟨_, _, rfl⟩
    · exact .inr ⟨fun r _ => rfl, fun p hp => by cases p <;> simp [Part.same, partsWritten] at *⟩
  case drw x y n =>
    refine ⟨_, rfl, ?_⟩
    split
    · exact .inl ⟨_, _, rfl⟩
    · refine .inr ⟨fun r hr => ?_, fun p hp => ?_⟩
      · simp only [regsWritten, List.mem_singleton] at hr
        simp [State.finishDraw, State.getV_setV, hr]
      · cases p <;> simp [Part.same, State.finishDraw, partsWritten] at *
  case load x =>
    refine ⟨_, rfl, ?_⟩
    rcases s.memRead_cases s.base (x.val + 1) with ⟨-, e⟩ | ⟨-, -, e⟩
    · rw [e]
      refine .inr ⟨fun r hr => ?_, fun p hp => by cases p <;> simp [Part.same, partsWritten] at *⟩
      simp [regsWritten] at hr
      show (loadFrom _ _ _)[r.val] = s.V[r.val]
      rw [loadFrom_getElem _ _ _ _ r.isLt, dif_neg]
      rw [Memory.readList_length]
      have : x.val < r.val := hr
      omega
    · rw [e]; exact .inl ⟨_, _, rfl⟩
  case bcd x =>
    refine ⟨_, rfl, ?_⟩
    rcases storeAtI_cases s (bcdDigits (s.getV x)) with ⟨-, e⟩ | ⟨-, -, e⟩
    · rw [e]
      exact .inr ⟨fun r _ => rfl, fun p hp => by cases p <;> simp [Part.same, partsWritten] at *⟩
    · rw [e]; exact .inl ⟨_, _, rfl⟩
  case dump x =>
    refine ⟨_, rfl, ?_⟩
    rcases storeAtI_cases s (s.regsUpTo x) with ⟨-, e⟩ | ⟨-, -, e⟩
    · rw [e]
      exact .inr ⟨fun r _ => rfl, fun p hp => by cases p <;> simp [Part.same, partsWritten] at *⟩
    · rw [e]; exact .inl ⟨_, _, rfl⟩
  all_goals refine ⟨_, rfl, .inr ⟨fun r hr => ?_, fun p hp => ?_⟩⟩
  all_goals first
    | rfl
    | (simp [regsWritten] at hr; simp [moveRef, State.getV_setV, hr])
    | (cases p <;> simp [Part.same, partsWritten, moveRef, skipIfEqual, skipIfNotEqual, State.setFlagThen] at *)

/-- What every address reads as after a store from `I` up. -/
theorem read_store_overlaid {s : State} (h : s.mem.wf) (bs : List Byte) (a : Nat) :
    (s.mem.writeList s.base bs).read a = overlaid s bs a := by
  unfold overlaid
  split
  · rename_i ha
    rw [List.getD_eq_getElem?_getD]
    by_cases hb : a - s.I.toNat < bs.length
    · have := Memory.read_writeList_inside h s.base (a - s.I.toNat) bs hb
      rw [State.base, Nat.add_sub_cancel' ha] at this
      rw [State.base, this, List.getElem?_eq_getElem hb, Option.getD_some]
    · rw [List.getElem?_eq_none (by omega), Option.getD_none]
      exact Memory.read_writeList_outside h _ _ _ (.inr (by rw [State.base]; omega))
  · exact Memory.read_writeList_outside h _ _ _ (.inl (by rw [State.base]; omega))

/-- The one thing an instruction can do to memory: store a list of bytes from `I` up, all below `END`. Only `BCD` and
the register dump do it. -/
theorem exec_memory (i : Instr) (s : State) : ∃ t, exec i s = .next t ∧
    (t.mem = s.mem ∨ (∃ x, i = .bcd x ∨ i = .dump x) ∧
      ∃ bs, s.base + bs.length ≤ s.endAddr ∧ t.mem = s.mem.writeList s.base bs) := by
  cases i
  case ret =>
    refine ⟨_, exec_eq_next _ _, .inl ?_⟩
    cases h : s.stack <;> simp [execState, exec, execRet, h]
  case bcd x =>
    refine ⟨_, rfl, ?_⟩
    rcases storeAtI_cases s (bcdDigits (s.getV x)) with ⟨h, e⟩ | ⟨-, -, e⟩ <;> rw [e]
    · exact .inr ⟨⟨x, .inl rfl⟩, _, by simpa [bcdDigits] using h, rfl⟩
    · exact .inl rfl
  case dump x =>
    refine ⟨_, rfl, ?_⟩
    rcases storeAtI_cases s (s.regsUpTo x) with ⟨h, e⟩ | ⟨-, -, e⟩ <;> rw [e]
    · exact .inr ⟨⟨x, .inr rfl⟩, _, by simpa using h, rfl⟩
    · exact .inl rfl
  case drw x y n => exact ⟨_, rfl, .inl (by split <;> rfl)⟩
  case load x => exact ⟨_, rfl, .inl (by split <;> rfl)⟩
  case addIV x => exact ⟨_, rfl, .inl (by split <;> rfl)⟩
  case call nnn => exact ⟨_, rfl, .inl (by split <;> rfl)⟩
  all_goals exact ⟨_, rfl, .inl rfl⟩

/-- A step is one of these: nothing on a halted engine; a fetch fault; one of the two decode faults; or the decoded
instruction. -/
theorem step_cases {s t : State} (h : step s = .next t) :
    (∃ k info, s.run = .halted k info ∧ t = s) ∨
    (s.run = .running ∧ s.endAddr < s.pc.toNat + 2 ∧ t = raise .addressOutOfBounds (max s.pc.toNat s.endAddr) s) ∨
    (∃ op e, s.run = .running ∧ s.fetch = .ok op ∧ decode op = .error e ∧ t = raiseDecode e s) ∨
    (∃ op i, s.run = .running ∧ s.fetch = .ok op ∧ decode op = .ok i ∧ exec i s = .next t) := by
  unfold step at h
  split at h
  · rename_i k info hr
    exact .inl ⟨k, info, hr, by cases h; rfl⟩
  · rename_i hr
    unfold fetchDecode at h
    rcases s.fetch_cases with ⟨-, hf⟩ | ⟨hlt, hf⟩
    · rw [hf] at h
      dsimp only at h
      cases hd : decode (opcodeOf (s.mem.read s.pc.toNat) (s.mem.read (s.pc.toNat + 1))) with
      | error e =>
        rw [hd] at h
        exact .inr (.inr (.inl ⟨_, e, hr, hf, hd, by cases h; rfl⟩))
      | ok i =>
        rw [hd] at h
        exact .inr (.inr (.inr ⟨_, i, hr, hf, hd, h⟩))
    · rw [hf] at h
      exact .inr (.inl ⟨hr, hlt, by cases h; rfl⟩)

/-- A step answers a next state, from every state. -/
theorem step_answers_next (s : State) : ∃ t, step s = .next t := by
  unfold step
  split
  · exact ⟨_, rfl⟩
  · split
    · exact ⟨_, rfl⟩
    · exact exec_answers_next _ _

/-- The decode stage's failure changes only `run`. -/
theorem raiseDecode_eq (e : DecodeError) (s : State) : ∃ k info, raiseDecode e s = raise k info s := by
  cases e <;> exact ⟨_, _, rfl⟩

end Sys2Proof.Machine
end

