-- ==== Sys2Proof/Tests/Slice0.lean ====
section
/-! SUPPORT. The model's own tests. Every expected value is from spec/95_test_vectors.md (the vector or example named in
each comment) or worked out by hand from the rule named there; none is the model's own answer. -/

namespace Sys2Proof.Tests

open Sys2Proof.Machine

/-! ### WellFormed: the one check refuses its ill-formed term -/

/-- Sixteen rows do not fit the 4-bit field `n` (rule R61). -/
theorem test_wf_refuses_sixteen_rows : (Instr.drw 0 1 16).wf = false := by decide

theorem test_wf_accepts_fifteen_rows : (Instr.drw 0 1 15).wf = true := by decide

/-! ### Decoding: words written out from table T-OPC, one for every constructor (V-DEC, E1) -/

theorem test_decode_cls : decode 0b0000000011100000#16 = .ok .cls := by decide
theorem test_decode_ret : decode 0b0000000011101110#16 = .ok .ret := by decide
theorem test_decode_jp : decode 0b0001_101010111100#16 = .ok (.jp 0xABC) := by decide
theorem test_decode_call : decode 0b0010_111111111111#16 = .ok (.call 0xFFF) := by decide
theorem test_decode_seVN : decode 0b0011_1010_00000000#16 = .ok (.seVN 10 0x00) := by decide
theorem test_decode_sneVN : decode 0b0100_1111_11111111#16 = .ok (.sneVN 15 0xFF) := by decide
theorem test_decode_seVV : decode 0b0101_1010_1011_1111#16 = .ok (.seVV 10 11) := by decide
theorem test_decode_ldVN : decode 0b0110_1010_00111011#16 = .ok (.ldVN 10 0x3B) := by decide
theorem test_decode_addVN : decode 0b0111_1111_00000001#16 = .ok (.addVN 15 0x01) := by decide
theorem test_decode_ldVV : decode 0b1000_0001_0010_0000#16 = .ok (.ldVV 1 2) := by decide
theorem test_decode_orVV : decode 0b1000_0001_0010_0001#16 = .ok (.orVV 1 2) := by decide
theorem test_decode_andVV : decode 0b1000_0001_0010_0010#16 = .ok (.andVV 1 2) := by decide
theorem test_decode_xorVV : decode 0b1000_0001_0010_0011#16 = .ok (.xorVV 1 2) := by decide
theorem test_decode_addVV : decode 0b1000_1010_1011_0100#16 = .ok (.addVV 10 11) := by decide
theorem test_decode_subVV : decode 0b1000_0001_0010_0101#16 = .ok (.subVV 1 2) := by decide
theorem test_decode_shrVV : decode 0b1000_0001_0010_0110#16 = .ok (.shrVV 1 2) := by decide
theorem test_decode_subnVV : decode 0b1000_0001_0010_0111#16 = .ok (.subnVV 1 2) := by decide
theorem test_decode_sneVV : decode 0b1001_1010_1011_0111#16 = .ok (.sneVV 10 11) := by decide
theorem test_decode_ldIN : decode 0b1010_000100100011#16 = .ok (.ldIN 0x123) := by decide
theorem test_decode_rndVN : decode 0b1100_0001_11111111#16 = .ok (.rndVN 1 0xFF) := by decide
theorem test_decode_drw : decode 0b1101_0001_0010_0011#16 = .ok (.drw 1 2 3) := by decide
theorem test_decode_skp : decode 0b1110_0001_10011110#16 = .ok (.skp 1) := by decide
theorem test_decode_sknp : decode 0b1110_0001_10100001#16 = .ok (.sknp 1) := by decide
theorem test_decode_ldVDT : decode 0b1111_0001_00000111#16 = .ok (.ldVDT 1) := by decide
theorem test_decode_ldVK : decode 0b1111_0001_00001010#16 = .ok (.ldVK 1) := by decide
theorem test_decode_ldDTV : decode 0b1111_0001_00010101#16 = .ok (.ldDTV 1) := by decide
theorem test_decode_ldSTV : decode 0b1111_0001_00011000#16 = .ok (.ldSTV 1) := by decide
theorem test_decode_addIV : decode 0b1111_1111_00011110#16 = .ok (.addIV 15) := by decide
theorem test_decode_bcd : decode 0b1111_0001_00110011#16 = .ok (.bcd 1) := by decide
theorem test_decode_dump : decode 0b1111_0001_01010101#16 = .ok (.dump 1) := by decide
theorem test_decode_load : decode 0b1111_0001_01100101#16 = .ok (.load 1) := by decide

/-- The rejected words of V-DEC that lie next to an instruction's word. -/
theorem test_decode_rejects_by_name :
    decode 0x0000 = .error (.unimplementedOpcode 0x0000) ∧ decode 0x00E1 = .error (.unimplementedOpcode 0x00E1) ∧
    decode 0x812E = .error (.unimplementedOpcode 0x812E) ∧ decode 0x8128 = .error (.unimplementedOpcode 0x8128) ∧
    decode 0xB123 = .error (.invalidOpcode 0xB123) ∧ decode 0xE19F = .error (.unimplementedOpcode 0xE19F) ∧
    decode 0xE1A0 = .error (.unimplementedOpcode 0xE1A0) ∧ decode 0xF129 = .error (.unimplementedOpcode 0xF129) ∧
    decode 0xF175 = .error (.unimplementedOpcode 0xF175) := by decide

theorem test_decodeTableWord : decodeTableWord 16 0xF365 = some (.load 3) ∧ decodeTableWord 16 0xB000 = none := by
  decide

/-! ### One step each -/

/-- What a step leaves, seen through `f`. -/
def after {α : Type} (o : Host.Outcome State Fault Refusal) (f : State → α) : Option α :=
  match o with
  | .next t => some (f t)
  | .fault _ => none
  | .refused _ => none

/-- A running engine at `pc = 0x200` with `END = 0x1000`. -/
def base : State := { State.reset with endAddr := 0x1000 }

/-- `base` with two registers. -/
def regs (x : RegIdx) (a : Byte) (y : RegIdx) (b : Byte) : State := (base.setV x a).setV y b

/-- One step that fetches, decodes and runs the opcode `op` in `s`. -/
def run (op : Nat) (s : State) : Host.Outcome State Fault Refusal := step (s.withFetchWord 16 op)

/-- The same for `base` with some memory bytes at `a`, and `I = a`. -/
def dataAt (a : Nat) (bs : List Byte) (s : State) : State :=
  { s with mem := s.mem.writeList a bs, I := BitVec.ofNat 16 a }

/-- V-CTL-1. -/
theorem test_jp : after (run 0x1206 { base with pc := 0x20C }) (·.pc) = some 0x206 := by decide

/-- V-CTL-5: the pushed value is the address after the call. -/
theorem test_call : after (run 0x2300 { base with pc := 0x2FE, stack := [0x0202] }) (fun t => (t.pc, t.stack)) =
    some (0x300, [0x0300, 0x0202]) := by decide

/-- V-CTL-6. -/
theorem test_call_full : after (run 0x2300 { base with stack := List.replicate 16 0x0202 })
    (fun t => (t.pc, t.stack.length, t.run)) = some (0x200, 16, .halted .stackOverflow 0x2300) := by decide

/-- V-CTL-7. -/
theorem test_ret : after (run 0x00EE { base with pc := 0x300, stack := [0x0300, 0x0202] })
    (fun t => (t.pc, t.stack)) = some (0x300, [0x0202]) := by decide

/-- V-CTL-8. -/
theorem test_ret_empty : after (run 0x00EE base) (fun t => (t.pc, t.run)) =
    some (0x200, .halted .stackUnderflow 0x00EE) := by decide

/-- V-SKIP-1, V-SKIP-2. -/
theorem test_seVN : after (run 0x3110 (regs 1 0x10 2 0)) (·.pc) = some 0x204 ∧
    after (run 0x3110 (regs 1 0x11 2 0)) (·.pc) = some 0x202 := by decide

/-- V-SKIP-3, V-SKIP-4. -/
theorem test_sneVN : after (run 0x4110 (regs 1 0x10 2 0)) (·.pc) = some 0x202 ∧
    after (run 0x4110 (regs 1 0x11 2 0)) (·.pc) = some 0x204 := by decide

/-- V-SKIP-8, V-SKIP-6. -/
theorem test_seVV : after (run 0x512F (regs 1 0x7F 2 0x7F)) (·.pc) = some 0x204 ∧
    after (run 0x5120 (regs 1 0x7F 2 0x80)) (·.pc) = some 0x202 := by decide

/-- V-SKIP-9, V-SKIP-10. -/
theorem test_sneVV : after (run 0x9120 (regs 1 1 2 2)) (·.pc) = some 0x204 ∧
    after (run 0x9120 (regs 1 2 2 2)) (·.pc) = some 0x202 := by decide

/-- V-SKIP-12, V-SKIP-13: the latch is emptied in both. -/
theorem test_skp : after (run 0xE19E { regs 1 5 2 0 with latch := some 5 }) (fun t => (t.pc, t.latch)) =
      some (0x204, none) ∧
    after (run 0xE19E { regs 1 5 2 0 with latch := some 7 }) (fun t => (t.pc, t.latch)) = some (0x202, none) := by
  decide

/-- V-SKIP-14: the empty latch compares `NOKEY`. -/
theorem test_skp_empty : after (run 0xE19E (regs 1 5 2 0)) (·.pc) =
    some (if (5 : Byte) = Config.noKey then 0x204 else 0x202) := by
  have h : after (run 0xE19E (regs 1 5 2 0)) (·.pc) =
    some (if decide ((5 : Byte) = Config.noKey) then 0x204 else 0x202) := rfl
  simpa using h

/-- V-SKIP-15, V-SKIP-16. -/
theorem test_sknp : after (run 0xE1A1 { regs 1 5 2 0 with latch := some 5 }) (fun t => (t.pc, t.latch)) =
      some (0x202, none) ∧
    after (run 0xE1A1 { regs 1 5 2 0 with latch := some 7 }) (fun t => (t.pc, t.latch)) = some (0x204, none) := by
  decide

/-- V-ALU-1. -/
theorem test_ldVN : after (run 0x6A3B base) (·.getV 10) = some 0x3B := by decide

/-- V-ALU-2: no flag. -/
theorem test_addVN : after (run 0x7A01 (regs 10 0xFF 15 0)) (fun t => (t.getV 10, t.getV 15)) = some (0, 0) := by
  decide

/-- V-ALU-3: the draw and the mask. -/
theorem test_rndVN : after (run 0xC10F base) (fun t => (t.getV 1, t.draws)) =
    some (Config.rnd 0 &&& 0x0F, 1) := rfl

/-- V-ALU-4. -/
theorem test_ldVV : after (run 0x8120 (regs 2 0x5A 15 1)) (fun t => (t.getV 1, t.getV 2, t.getV 15)) =
    some (0x5A, 0x5A, 1) := by decide

/-- V-ALU-7. -/
theorem test_orVV : after (run 0x8121 ((regs 1 0xF0 2 0x0F).setV 15 1)) (fun t => (t.getV 1, t.getV 15)) =
    some (0xFF, 1) := by decide

/-- V-ALU-7. -/
theorem test_andVV : after (run 0x8122 ((regs 1 0xF3 2 0x3F).setV 15 1)) (fun t => (t.getV 1, t.getV 15)) =
    some (0x33, 1) := by decide

/-- V-ALU-7. -/
theorem test_xorVV : after (run 0x8123 ((regs 1 0xFF 2 0x0F).setV 15 1)) (fun t => (t.getV 1, t.getV 15)) =
    some (0xF0, 1) := by decide

/-- E2, and V-ALU-5 row 8 (`VF` as the destination keeps the sum). -/
theorem test_addVV : after (run 0x8124 (regs 1 0xFF 2 1)) (fun t => (t.getV 1, t.getV 15)) = some (0, 1) ∧
    after (run 0x8F14 (regs 15 0x10 1 0x20)) (·.getV 15) = some 0x30 := by decide

/-- V-ALU-6 rows 2 and 8. -/
theorem test_subVV : after (run 0x8125 (regs 1 3 2 5)) (fun t => (t.getV 1, t.getV 15)) = some (0xFE, 1) ∧
    after (run 0x8F15 (regs 15 3 1 5)) (·.getV 15) = some 0xFE := by decide

/-- V-ALU-8 row 1, both values of `SHIFT_SRC`. -/
theorem test_shrVV : after (run 0x8126 (regs 1 0xAA 2 3)) (fun t => (t.getV 1, t.getV 2, t.getV 15)) =
      some (1, 3, 1) ∧
    after (run 0x8126 (regs 1 0xAA 2 3 |> fun s => { s with cfg := { shiftSrc := .vx } }))
      (fun t => (t.getV 1, t.getV 2, t.getV 15)) = some (0x55, 3, 0) := by decide

/-- V-ALU-9 rows 3 and 7. -/
theorem test_subnVV : after (run 0x8127 ((regs 1 2 2 1).setV 15 1)) (fun t => (t.getV 1, t.getV 15)) =
      some (0xFF, 1) ∧
    after (run 0x8F17 (regs 15 1 1 5)) (·.getV 15) = some 4 := by decide

/-- V-IDX-1. -/
theorem test_ldIN : after (run 0xA20E base) (·.I) = some 0x020E := by decide

/-- V-IDX-3, V-IDX-4. -/
theorem test_addIV : after (run 0xF11E { regs 1 2 15 0 with I := 0x0FFF }) (fun t => (t.I, t.getV 15)) =
      some (0x1001, 0) ∧
    after (run 0xF11E { regs 1 1 15 0 with I := 0xFFFF }) (fun t => (t.I, t.getV 15)) = some (0, 0) := by decide

/-- V-IDX-6. -/
theorem test_addIV_flag_register : after (run 0xFF1E base) (fun t => (t.I, t.pc, t.run)) =
    some (0, 0x200, .halted .reservedOperandMisuse 0xFF1E) := by decide

/-- V-IDX-10, V-IDX-11; and rule R52, by hand: the digit 2 is the low byte of the next opcode. -/
theorem test_bcd : after (run 0xF033 { regs 0 0xEA 1 0 with I := 0x300 }) (·.mem.readList 0x300 3) =
      some [2, 3, 4] ∧
    after (run 0xF033 { regs 0 0xFF 1 0 with I := 0x300 }) (·.mem.readList 0x300 3) = some [2, 5, 5] ∧
    after (run 0xF033 { regs 0 0xEA 1 0 with I := 0x203 }) (·.fetch.toOption) = some (some 0x0002) := by decide

/-- V-IDX-13: nothing is written. -/
theorem test_bcd_out : after (run 0xF033 { regs 0 0xEA 1 0 with I := 0x20E, endAddr := 0x210 })
    (fun t => (t.mem.readList 0x20E 2, t.run)) = some ([0, 0], .halted .addressOutOfBounds 0x210) := by decide

/-- V-IDX-15. -/
theorem test_dump : after (run 0xF255 { ((regs 0 0x11 1 0x22).setV 2 0x33).setV 3 0x44 with I := 0x300 })
    (fun t => (t.mem.readList 0x300 4, t.I)) = some ([0x11, 0x22, 0x33, 0], 0x300) := by decide

/-- V-IDX-22: the font region takes a store. -/
theorem test_dump_font : after (run 0xF155 (regs 0 0xAA 1 0xBB)) (·.mem.readList 0 3) =
    some [0xAA, 0xBB, 0x90] := by decide

/-- V-IDX-19. -/
theorem test_load : after (run 0xF265 (dataAt 0x20E [2, 3, 4] (regs 3 0x99 4 0)))
    (fun t => (t.getV 0, t.getV 1, t.getV 2, t.getV 3, t.I)) = some (2, 3, 4, 0x99, 0x20E) := by decide

/-- V-IDX-21: no register is written. -/
theorem test_load_out : after (run 0xF265 { dataAt 0x20E [2, 3] (regs 0 0x55 1 0) with endAddr := 0x210 })
    (fun t => (t.getV 0, t.run)) = some (0x55, .halted .addressOutOfBounds 0x210) := by decide

/-- V-DRW-12: `VF` unaffected, one event. -/
theorem test_cls : after (run 0x00E0 { base.setV 15 1 with pixels := Grid.put Grid.blank 3 4 true })
    (fun t => (t.pixel 3 4, t.events, t.getV 15)) = some (false, [.clearAll], 1) := by decide

/-- E6: the collision. -/
theorem test_drw_collision : after (run 0xD011 { dataAt 0x300 [0x80] base with
      pixels := Grid.put Grid.blank 0 0 true })
    (fun t => (t.pixel 0 0, t.events, t.getV 15)) = some (false, [.pixel 0 0 false], 1) := by decide

/-- P3, cycle 4: wrap at both edges, order from right to left, no collision. -/
theorem test_drw_wrap : after (run 0xD012 (dataAt 0x300 [0xC0, 0x81] (regs 0 0x3E 1 0x1F)))
    (fun t => (t.events, t.getV 15)) =
    some ([.pixel 63 31 true, .pixel 62 31 true, .pixel 5 0 true, .pixel 62 0 true], 0) := by decide

/-- V-TMR-2, V-TMR-1, V-TMR-3. -/
theorem test_timers : after (run 0xF107 { base with DT := 0x3C }) (fun t => (t.getV 1, t.DT)) = some (0x3C, 0x3C) ∧
    after (run 0xF115 (regs 1 0x3C 2 0)) (·.DT) = some 0x3C ∧
    after (run 0xF118 (regs 1 0x05 2 0)) (·.ST) = some 0x05 := by decide

/-- V-TMR-8: key 0 is a key. -/
theorem test_ldVK : after (run 0xF10A { regs 1 0x77 2 0 with latch := some 0 }) (fun t => (t.getV 1, t.latch)) =
    some (0, none) := by decide

/-- V-TMR-9: it does not wait. -/
theorem test_ldVK_empty : after (run 0xF10A (regs 1 0x77 2 0)) (fun t => (t.getV 1, t.latch, t.pc)) =
    some (Config.noKey, none, 0x202) := rfl

/-- V-FAULT-1, V-FAULT-10: the fetch fails first. -/
theorem test_fetch_out : after (step { State.reset with mem := State.reset.mem.write 0x200 0xB1, endAddr := 0x201 })
    (fun t => (t.run, t.pc)) = some (.halted .addressOutOfBounds 0x201, 0x200) := by decide

/-- V-FAULT-5, V-FAULT-7. -/
theorem test_decode_faults : after (run 0xB123 base) (·.run) = some (.halted .invalidOpcode 0xB123) ∧
    after (run 0x0000 base) (·.run) = some (.halted .unimplementedOpcode 0x0000) := by decide

/-- V-CTL-3: a fetch at an odd address. -/
theorem test_odd_fetch : after (run 0x00E0 { base with pc := 0x201 }) (·.events) = some [.clearAll] := by decide

/-- V-TMR-13. -/
theorem test_halted_step : after (step (raise .invalidOpcode 0xB123 base)) (·.run) =
    some (.halted .invalidOpcode 0xB123) := by decide

/-- Running off the end from reset: the empty program's first cycle faults (P4, rule R192). -/
theorem test_reset_step : after (step State.reset) (·.run) = some (.halted .addressOutOfBounds 0x200) := by decide

/-- V-TMR-4 to V-TMR-6. -/
theorem test_tick : ({ base with DT := 2, ST := 0 } : State).tick.DT = 1 ∧
    ({ base with DT := 0, ST := 1 } : State).tick.ST = 0 ∧ base.tick = base := by decide

/-- V-TMR-10, V-TMR-12: the last push wins, and a drain takes all. -/
theorem test_push_drain : ((base.pushKey (some 3)).pushKey (some 9)).latch = some 9 ∧
    ({ base with events := [.clearAll, .pixel 0 0 true] } : State).drained = [.clearAll, .pixel 0 0 true] ∧
    ({ base with events := [.clearAll, .pixel 0 0 true] } : State).drain.events = [] := by decide

/-- A launch (rule R190): font, program and `END` in place. -/
theorem test_launch : let s := State.launch { program := [0x60, 0x01] }
    s.mem.readList 0x200 2 = [0x60, 0x01] ∧ s.endAddr = 0x202 ∧ s.mem.readList 0x4B 5 = [0xF0, 0x80, 0xF0, 0x80, 0x80] ∧
      s.pc = 0x200 := by decide +kernel

/-! ### Witnesses: for every statement with hypotheses, states and operands that meet them together -/

/-- A running engine with the opcode `op` at `pc = p` and `END = e`. -/
def holding (op : Word) (p e : Nat) : State :=
  { State.reset with
    pc := BitVec.ofNat 16 p, endAddr := e, mem := State.reset.mem.writeList p [hiByte op, loByte op] }

/-- The two bytes at `pc` are the opcode `op`, and both lie below `END`. -/
abbrev Fetchable (s : State) (op : Word) : Prop :=
  s.run = .running ∧ s.pc.toNat + 1 < s.endAddr ∧
    op.toNat = 256 * (s.mem.read s.pc.toNat).toNat + (s.mem.read (s.pc.toNat + 1)).toNat

/-- A state whose stack holds sixteen entries. -/
def full : State := { base with stack := List.replicate 16 0x0202 }

/-- A state with `I = a` and `END = e`. -/
def indexed (a e : Nat) : State := { State.reset with I := BitVec.ofNat 16 a, endAddr := e }

theorem wit_DecodeOfEncode : (Instr.drw 15 0 15).wf = true ∧ (Instr.drw 0 15 0).wf = true ∧
    (Instr.call 0xFFF).wf = true ∧ (Instr.ldVN 15 0xFF).wf = true := by decide

/-- A word of family 5 with a low nibble, one of family 9, and one of neither. -/
theorem wit_EncodeOfDecode : decode 0x512F = .ok (.seVV 1 2) ∧ decode 0x9121 = .ok (.sneVV 1 2) ∧
    decode 0x8127 = .ok (.subnVV 1 2) := by decide

/-- Each clause at the ends of its range. -/
theorem wit_RejectedOpcodes : famField 0xB000 = 0xB ∧ famField 0xBFFF = 0xB ∧
    (famField 0x0000 = 0x0 ∧ famField 0x0FFF = 0x0 ∧ famField 0x00EF = 0x0) ∧
    (famField 0x8008 = 0x8 ∧ 8 ≤ (nField 0x8008).toNat ∧ 8 ≤ (nField 0x8FFF).toNat) ∧
    (famField 0xE09F = 0xE ∧ nnField 0xE09F ≠ 0x9E ∧ nnField 0xE09F ≠ 0xA1) ∧
    (famField 0xF029 = 0xF ∧ nnField 0xF029 ∉ ([0x07, 0x0A, 0x15, 0x18, 0x1E, 0x33, 0x55, 0x65] : List Byte)) ∧
    decode 0xB123 = .error (.invalidOpcode 0xB123) := by decide

/-- The last two bytes below `END`, at an odd `pc`. -/
theorem wit_StepRuns : Fetchable (holding 0x6A3B 0x2FF 0x301) 0x6A3B ∧
    decode 0x6A3B = .ok (.ldVN 10 0x3B) := by decide

theorem wit_Cycle_halted : (raise .stackUnderflow 0x00EE base).run ≠ .running := by decide

theorem wit_Cycle_fetch_fault : (holding 0x6A3B 0x300 0x301).run = .running ∧
    (holding 0x6A3B 0x300 0x301).endAddr ≤ (holding 0x6A3B 0x300 0x301).pc.toNat + 1 := by decide

theorem wit_Cycle_decode_fault : Fetchable (holding 0xB123 0x200 0x202) 0xB123 ∧
    decode 0xB123 = .error (.invalidOpcode 0xB123) := by decide

/-- `pc` is the last byte, and `pc` is `END` itself. -/
theorem wit_FetchFault : (holding 0 0x300 0x301).run = .running ∧
    ((holding 0 0x300 0x301).endAddr ≤ (holding 0 0x300 0x301).pc.toNat + 1 ∧
      ¬ (holding 0 0x300 0x301).endAddr ≤ (holding 0 0x300 0x301).pc.toNat) ∧
    (holding 0 0x300 0x300).endAddr ≤ (holding 0 0x300 0x300).pc.toNat := by decide

/-- One word for each clause: family B, family 0 beside a literal, family 8 at sub-operation 8, families E and F beside a
defined low byte. -/
theorem wit_DecodeFault : (Fetchable (holding 0xB000 0x200 0x202) 0xB000 ∧ famField 0xB000 = 0xB) ∧
    (Fetchable (holding 0x00EF 0x200 0x202) 0x00EF ∧ famField 0x00EF = 0x0) ∧
    (Fetchable (holding 0x8128 0x200 0x202) 0x8128 ∧ famField 0x8128 = 0x8 ∧ 8 ≤ (nField 0x8128).toNat) ∧
    (Fetchable (holding 0xE19F 0x200 0x202) 0xE19F ∧ famField 0xE19F = 0xE ∧ nnField 0xE19F ≠ 0x9E ∧
      nnField 0xE19F ≠ 0xA1) ∧
    (Fetchable (holding 0xF166 0x200 0x202) 0xF166 ∧ famField 0xF166 = 0xF ∧
      nnField 0xF166 ∉ ([0x07, 0x0A, 0x15, 0x18, 0x1E, 0x33, 0x55, 0x65] : List Byte)) := by
  decide

/-- A step that changes `run`, and host actions on the halted engine. -/
theorem wit_RunState : after (step (holding 0xB000 0x200 0x202)) (fun t => decide (t.run ≠ .running)) = some true ∧
    (∀ a ∈ [HostAction.step, .tick, .pushKey (some 0xF), .drain], a.keepsRun = true) ∧
    (raise .invalidOpcode 0xB000 base).run = .halted .invalidOpcode 0xB000 := by decide

/-- A step that halts on a fetch, on a decode and on an execution. -/
theorem wit_FaultingCycle : after (step State.reset) (fun t => decide (t.run ≠ .running)) = some true ∧
    after (step (holding 0x8128 0x200 0x202)) (fun t => decide (t.run ≠ .running)) = some true ∧
    after (step (holding 0x00EE 0x200 0x202)) (fun t => decide (t.run ≠ .running)) = some true := by decide

/-- One raise for each of the four kinds. -/
theorem wit_ExecuteFaults : full.run = .running ∧ base.run = .running ∧
    after (exec (.call 0x300) full) (·.run) = some (.halted .stackOverflow 0x2300) ∧
    after (exec .ret base) (·.run) = some (.halted .stackUnderflow 0x00EE) ∧
    after (exec (.addIV VF) base) (·.run) = some (.halted .reservedOperandMisuse 0xFF1E) ∧
    after (exec (.bcd 0) (indexed 0x20E 0x210)) (·.run) = some (.halted .addressOutOfBounds 0x210) := by decide

theorem wit_Placed : State.reset.mem.wf ∧ decode 0xF365 = .ok (.load 3) := ⟨reset_memory_wf, by decide⟩

/-- The largest program that fits the default store. -/
def largest : Launch := { program := List.replicate 3584 0xFF }

theorem wit_HostAction_launch_legal : largest.legal = true ∧ largest.endAddr = largest.config.memSize ∧
    ({} : Launch).legal = true := by decide +kernel

/-- The premise of the two invariant statements. -/
theorem wit_Invariant : (indexed 0x300 0x400).mem.wf ∧ (indexed 0x300 0x400).stackFits ∧
    (indexed 0x300 0x400).launchLegal ∧ (indexed 0x300 0x400).aboveEndUntouched := by
  refine ⟨reset_memory_wf, fun d _ => Nat.zero_le d, ?_, fun _ _ => rfl⟩
  unfold State.launchLegal
  decide

/-- An instruction that changes something: here the latch, the registers and memory. -/
theorem wit_StateIsChanged : after (exec (.ldVK 1) { base with latch := some 7 }) (fun t => (t.latch, t.getV 1)) =
      some (none, 7) ∧
    after (exec (.dump 0) { regs 0 0xAA 1 0 with I := 0x300 }) (·.mem.read 0x300) = some 0xAA := by decide

/-- A well-formed memory and a step that stores up to the last byte below `END`. -/
theorem wit_NeverAboveEnd : (indexed 0x1FD 0x200).mem.wf ∧
    after (exec (.bcd 0) (indexed 0x1FD 0x200)) (·.run) = some .running := ⟨reset_memory_wf, by decide⟩

/-- Two states that differ in the queue and the sound timer, and step to next states. -/
theorem wit_NeverRead :
    blankUnread { holding 0x6A3B 0x200 0x202 with ST := 5, events := [.clearAll] } =
      blankUnread (holding 0x6A3B 0x200 0x202) ∧
    after (step (holding 0x6A3B 0x200 0x202)) (·.getV 10) = some 0x3B ∧
    after (step { holding 0x6A3B 0x200 0x202 with ST := 5, events := [.clearAll] }) (·.getV 10) = some 0x3B := by
  decide

/-- A queue that replays the grid, and a step that adds an event. -/
theorem wit_EventsOfAStep : replay (holding 0x00E0 0x200 0x202).events Grid.blank = (holding 0x00E0 0x200 0x202).pixels ∧
    after (step (holding 0x00E0 0x200 0x202)) (·.events) = some [.clearAll] := by decide

/-- A run after a reset with each kind of action: the drain returns the clear's event. -/
theorem wit_DrainedHistory : (∀ a ∈ [HostAction.step, .tick, .pushKey none, .drain], a.keepsRun = true) ∧
    (match performAll [.reset { program := [0x00, 0xE0] }, .step, .drain] State.reset with
      | .next (t, rs) => decide (t.events = [] ∧ drainedEvents rs = [.clearAll])
      | .fault _ => false
      | .refused _ => false) = true := by decide +kernel

/-- One entry below the capacity, and at it. -/
theorem wit_Call : ({ base with stack := List.replicate 15 0x0202 } : State).cfg.stackDepth ≠
      some ({ base with stack := List.replicate 15 0x0202 } : State).stack.length ∧
    full.cfg.stackDepth = some full.stack.length := by decide

theorem wit_Return : full.stack = 0x0202 :: List.replicate 15 0x0202 ∧ base.stack = [] ∧
    after (exec (.call 0x300) base) (·.stack.length) = some 1 := by decide

theorem wit_Shift : (base.cfg.shiftSrc = .vy → (3 : Byte) = (regs 1 0xAA 2 3).getV 2) ∧
    (base.cfg.shiftSrc = .vx → (3 : Byte) = (regs 1 0xAA 2 3).getV 1) ∧
    ({ base with cfg := { shiftSrc := .vx } } : State).cfg.shiftSrc = .vx := by decide

/-- `x ≠ VF`: the premise of the flag clauses of `ADD`, `SUB`, `SHR` and of `ADD I, Vx`, at both ends. -/
theorem wit_not_VF : (0 : RegIdx) ≠ VF ∧ (14 : RegIdx) ≠ VF := by decide

/-- The three bytes end at `END`. -/
theorem wit_Bcd : (indexed 0x20D 0x210).mem.wf ∧ (indexed 0x20D 0x210).I.toNat + 3 ≤ (indexed 0x20D 0x210).endAddr ∧
    (indexed 0x20D 0x210).I.toNat + 3 = (indexed 0x20D 0x210).endAddr := ⟨reset_memory_wf, by decide, by decide⟩

/-- Sixteen registers end at `END`, for the dump and the load. -/
theorem wit_DumpLoad : (indexed 0x200 0x210).mem.wf ∧
    (indexed 0x200 0x210).I.toNat + (15 : RegIdx).val + 1 ≤ (indexed 0x200 0x210).endAddr :=
  ⟨reset_memory_wf, by decide⟩

/-- One byte past `END` for each of the four, and `I` at `END` itself. -/
theorem wit_AccessPastEnd : (indexed 0x20E 0x210).endAddr < (indexed 0x20E 0x210).I.toNat + 3 ∧
    (indexed 0x20E 0x210).endAddr < (indexed 0x20E 0x210).I.toNat + (2 : RegIdx).val + 1 ∧
    (0 < 3 ∧ (indexed 0x20E 0x210).endAddr < (indexed 0x20E 0x210).I.toNat + 3) ∧
    ¬ (indexed 0x20E 0x210).endAddr ≤ (indexed 0x20E 0x210).I.toNat ∧
    (indexed 0x210 0x210).endAddr ≤ (indexed 0x210 0x210).I.toNat := by decide

/-- The stores end at `END`, and the last byte `BCD` stores is the first of the next opcode at `pc + 2 = 0x202`. -/
theorem wit_StoreIsSeen : (indexed 0x200 0x204).mem.wf ∧
    (indexed 0x200 0x204).I.toNat + 3 ≤ (indexed 0x200 0x204).endAddr ∧
    (indexed 0x200 0x204).I.toNat + (3 : RegIdx).val + 1 ≤ (indexed 0x200 0x204).endAddr ∧
    ((indexed 0x200 0x204).pc + 2).toNat + 1 < (indexed 0x200 0x204).endAddr :=
  ⟨reset_memory_wf, by decide, by decide, by decide⟩

/-- Fifteen rows end at `END`, and no row with `I` past `END`. -/
theorem wit_Draw : 15 ≤ 15 ∧ (indexed 0x201 0x210).I.toNat + 15 ≤ (indexed 0x201 0x210).endAddr ∧
    (0 ≤ 15 ∧ ((0 : Nat) = 0 ∨ (indexed 0xFFFF 0x210).I.toNat + 0 ≤ (indexed 0xFFFF 0x210).endAddr)) := by decide

/-- A covered pixel that was set, for the collision clause; with the grid blank there is none. -/
theorem wit_Draw_collision : spriteCovers (dataAt 0x300 [0x80] base) 0 1 1 0 0 ∧
    ({ dataAt 0x300 [0x80] base with pixels := Grid.put Grid.blank 0 0 true } : State).pixel 0 0 = true ∧
    (dataAt 0x300 [0x80] base).pixel 0 0 = false := ⟨⟨0, 7, by decide⟩, by decide⟩

theorem wit_KeyRead : ({ base with latch := some 0xF } : State).latch = some 0xF ∧ base.latch = none := by decide

end Sys2Proof.Tests
end

/-! Encoding (spec/30_encoding.md): the opcode's fields against the masks and shifts of rule R61, and what the decoder's
dispatch can answer (rules R63, R64). -/

namespace Sys2Proof

/-! ### Masks and shifts (rule R61) -/

/-- A mask of `len` ones from bit `start` up, shifted back down, picks the binary digits `start` to `start + len - 1`. -/
theorem toNat_and_ushiftRight_of_mask (op mask : Word) (start len : Nat)
    (hmask : mask.toNat >>> start = 2 ^ len - 1) :
    ((op &&& mask) >>> start).toNat = op.toNat / 2 ^ start % 2 ^ len := by
  rw [BitVec.toNat_ushiftRight, BitVec.toNat_and, Nat.shiftRight_and_distrib, hmask, Nat.and_two_pow_sub_one_eq_mod,
    Nat.shiftRight_eq_div_pow]

/-- A mask of `len` ones at the low end needs no shift. -/
theorem toNat_and_of_mask (op mask : Word) (len : Nat) (hmask : mask.toNat = 2 ^ len - 1) :
    (op &&& mask).toNat = op.toNat % 2 ^ len := by
  rw [BitVec.toNat_and, hmask, Nat.and_two_pow_sub_one_eq_mod]

theorem xField_eq_mask (op : Word) : (xField op).val = ((op &&& 0x0F00) >>> 8).toNat :=
  (xField_val op).trans (toNat_and_ushiftRight_of_mask op 0x0F00 8 4 rfl).symm

theorem yField_eq_mask (op : Word) : (yField op).val = ((op &&& 0x00F0) >>> 4).toNat :=
  (yField_val op).trans (toNat_and_ushiftRight_of_mask op 0x00F0 4 4 rfl).symm

theorem nField_eq_mask (op : Word) : (nField op).toNat = (op &&& 0x000F).toNat :=
  (nField_toNat op).trans (toNat_and_of_mask op 0x000F 4 rfl).symm

theorem nnField_eq_mask (op : Word) : (nnField op).toNat = (op &&& 0x00FF).toNat :=
  (nnField_toNat op).trans (toNat_and_of_mask op 0x00FF 8 rfl).symm

theorem nnnField_eq_mask (op : Word) : (nnnField op).toNat = (op &&& 0x0FFF).toNat :=
  (nnnField_toNat op).trans (toNat_and_of_mask op 0x0FFF 12 rfl).symm

theorem famField_eq_shift (op : Word) : (famField op).toNat = (op >>> 12).toNat := by
  rw [famField_toNat, BitVec.toNat_ushiftRight, Nat.shiftRight_eq_div_pow]

theorem nnField_eq_y_n (op : Word) : (nnField op).toNat = 16 * (yField op).val + (nField op).toNat := by
  rw [nnField_toNat, yField_val, nField_toNat]
  omega

theorem nnnField_eq_x_nn (op : Word) : (nnnField op).toNat = 256 * (xField op).val + (nnField op).toNat := by
  rw [nnnField_toNat, xField_val, nnField_toNat]
  omega

/-- Settles O1: each field is the digits of the opcode that its mask and shift pick, and `nnn` is `x` before `nn`, `nn`
is `y` before `n`. -/
theorem fieldsMatchTheMasks : Obligations.FieldsMatchTheMasks := by
  intro op
  refine ⟨xField_eq_mask op, yField_eq_mask op, nField_eq_mask op, nnField_eq_mask op, nnnField_eq_mask op,
    famField_eq_shift op, nnField_eq_y_n op, ?_⟩
  rw [nnnField_eq_x_nn, nnField_eq_y_n, Nat.add_assoc]

/-! ### The literals and the family dispatch (rules R63, R64) -/

/-- An opcode decodes as one of the two literals or, when it is neither, by its family. -/
theorem decode_ok_cases {op : Word} {i : Instr} (h : decode op = .ok i) :
    (op = 0x00E0 ∧ i = .cls) ∨ (op = 0x00EE ∧ i = .ret) ∨
    (op ≠ 0x00E0 ∧ op ≠ 0x00EE ∧ decodeFamily op = .ok i) := by
  unfold decode at h
  split at h
  case isTrue hcls => cases h; exact .inl ⟨hcls, rfl⟩
  case isFalse hcls =>
    split at h
    case isTrue hret => cases h; exact .inr (.inl ⟨hret, rfl⟩)
    case isFalse hret => exact .inr (.inr ⟨hcls, hret, h⟩)

theorem decodeAlu_ok_ne_literal {op : Word} {i : Instr} (h : decodeAlu op = .ok i) : i ≠ .cls ∧ i ≠ .ret := by
  unfold decodeAlu at h
  split at h <;> cases h <;> exact ⟨nofun, nofun⟩

theorem decodeKey_ok_ne_literal {op : Word} {i : Instr} (h : decodeKey op = .ok i) : i ≠ .cls ∧ i ≠ .ret := by
  unfold decodeKey at h
  split at h <;> cases h <;> exact ⟨nofun, nofun⟩

theorem decodeMisc_ok_ne_literal {op : Word} {i : Instr} (h : decodeMisc op = .ok i) : i ≠ .cls ∧ i ≠ .ret := by
  unfold decodeMisc at h
  split at h <;> cases h <;> exact ⟨nofun, nofun⟩

/-- No family has `CLS` or `RET` among its instructions, family 0 included. -/
theorem decodeFamily_ok_ne_literal {op : Word} {i : Instr} (h : decodeFamily op = .ok i) : i ≠ .cls ∧ i ≠ .ret := by
  unfold decodeFamily at h
  split at h
  case h_9 => exact decodeAlu_ok_ne_literal h
  case h_14 => exact decodeKey_ok_ne_literal h
  case h_15 => exact decodeMisc_ok_ne_literal h
  all_goals cases h <;> exact ⟨nofun, nofun⟩

theorem decode_eq_cls_iff (op : Word) : decode op = .ok .cls ↔ op = 0x00E0 := by
  constructor
  · intro h
    obtain ⟨hop, -⟩ | ⟨-, hi⟩ | ⟨-, -, hfam⟩ := decode_ok_cases h
    · exact hop
    · cases hi
    · exact absurd rfl (decodeFamily_ok_ne_literal hfam).left
  · rintro rfl
    rfl

theorem decode_eq_ret_iff (op : Word) : decode op = .ok .ret ↔ op = 0x00EE := by
  constructor
  · intro h
    obtain ⟨-, hi⟩ | ⟨hop, -⟩ | ⟨-, -, hfam⟩ := decode_ok_cases h
    · cases hi
    · exact hop
    · exact absurd rfl (decodeFamily_ok_ne_literal hfam).right
  · rintro rfl
    rfl

/-- Settles O2: what decodes to `CLS` or `RET` did not come from the family dispatch, so it is the literal. -/
theorem literalsMatchOnAllBits : Obligations.LiteralsMatchOnAllBits :=
  fun op => ⟨decode_eq_cls_iff op, decode_eq_ret_iff op⟩

end Sys2Proof

/-! The call stack (rules R103, R104 of spec/40_cycle_and_control_transfer.md): the branches of `RET` and `CALL`, and
the stack rule for all other instructions. -/

namespace Sys2Proof.Machine

/-! ### `RET` and `CALL`, one equation a branch -/

theorem exec_ret_of_stack_cons {s : State} {top : Word} {rest : List Word} (h : s.stack = top :: rest) :
    exec .ret s = .next ((s.setStack rest).setPc top) := by
  simp [exec, execRet, h]

theorem exec_ret_of_stack_nil {s : State} (h : s.stack = []) :
    exec .ret s = .next (raise .stackUnderflow 0x00EE s) := by
  simp only [exec, execRet, h]
  rfl

theorem exec_call_of_stackFull {s : State} (nnn : BitVec 12) (h : s.stackFull = true) :
    exec (.call nnn) s = .next (raise .stackOverflow (encode (.call nnn)).toNat s) := by
  simp only [exec, execCall, if_pos h]

theorem exec_call_of_not_stackFull {s : State} (nnn : BitVec 12) (h : ¬ s.stackFull = true) :
    exec (.call nnn) s = .next ((s.push (s.pc + 2)).setPc (zextAddr nnn)) := by
  simp only [exec, execCall, if_neg h]
  rfl

/-- A new stack and a new `pc` are all that a completed `RET` or `CALL` writes. -/
theorem frame_setStack_setPc (s : State) (st : List Word) (p : Word) :
    Frame [] [.stack] s ((s.setStack st).setPc p) := by
  refine ⟨fun r _ => rfl, fun q hq => ?_⟩
  cases q
  case stack => exact absurd (List.mem_singleton_self _) hq
  case parameters => exact ⟨rfl, rfl⟩
  case memory => exact fun _ => rfl
  all_goals rfl

/-! ### Which instructions make the stack longer -/

theorem stack_mem_partsWritten_iff (i : Instr) :
    Part.stack ∈ partsWritten i ↔ i = .ret ∨ ∃ nnn, i = .call nnn := by
  cases i <;> simp [partsWritten]

/-- An instruction that does not list the stack among what it writes leaves it, whether it completes or raises. -/
theorem exec_stack_of_not_mem_partsWritten {i : Instr} {s t : State} (hi : Part.stack ∉ partsWritten i)
    (h : exec i s = .next t) : t.stack = s.stack := by
  obtain ⟨u, hu, hcases⟩ := exec_raises_or_frames i s
  obtain rfl : u = t := by simpa [hu] using h
  obtain ⟨k, info, rfl⟩ | ⟨-, hparts⟩ := hcases
  · exact raise_stack s k info
  · exact hparts .stack hi

theorem exec_ret_stack_length_le {s t : State} (h : exec .ret s = .next t) : t.stack.length ≤ s.stack.length := by
  cases hs : s.stack with
  | nil =>
    rw [exec_ret_of_stack_nil hs] at h
    cases h
    simp [hs]
  | cons top rest =>
    rw [exec_ret_of_stack_cons hs] at h
    cases h
    simp

/-- `CALL` raises and leaves the stack, or pushes its `npc`. -/
theorem exec_call_stack {nnn : BitVec 12} {s t : State} (h : exec (.call nnn) s = .next t) :
    t.stack = s.stack ∨ t.stack = (s.pc + 2) :: s.stack := by
  by_cases hfull : s.stackFull = true
  · rw [exec_call_of_stackFull nnn hfull] at h
    cases h
    exact .inl rfl
  · rw [exec_call_of_not_stackFull nnn hfull] at h
    cases h
    exact .inr rfl

/-- Only a `CALL` makes the stack longer, and by its `npc`. -/
theorem exec_stack_longer {i : Instr} {s t : State} (h : exec i s = .next t)
    (hlt : s.stack.length < t.stack.length) :
    (∃ nnn, i = .call nnn) ∧ t.stack = (s.pc + 2) :: s.stack := by
  by_cases hi : Part.stack ∈ partsWritten i
  · obtain rfl | ⟨nnn, rfl⟩ := (stack_mem_partsWritten_iff i).mp hi
    · exact absurd hlt (exec_ret_stack_length_le h).not_gt
    · obtain hsame | hpush := exec_call_stack h
      · rw [hsame] at hlt
        exact absurd hlt (lt_irrefl _)
      · exact ⟨⟨nnn, rfl⟩, hpush⟩
  · rw [exec_stack_of_not_mem_partsWritten hi h] at hlt
    exact absurd hlt (lt_irrefl _)

end Sys2Proof.Machine

namespace Sys2Proof

open Machine

/-- Settles O25: the two branches of `RET`, and that of the two instructions writing the stack only `CALL` can make it
longer. -/
theorem returnPopsIntoPc : Obligations.ReturnPopsIntoPc := by
  refine ⟨rfl, (decode_eq_ret_iff 0x00EE).mpr rfl, fun s => ⟨fun top rest hs => ?_, exec_ret_of_stack_nil,
    fun i t => exec_stack_longer⟩⟩
  exact ⟨_, exec_ret_of_stack_cons hs, rfl, rfl, frame_setStack_setPc s rest top⟩

end Sys2Proof

/-! `LD Vx, nn` (rule R122 of spec/42_register_set_and_alu.md): its opcode and the write of one register. -/

namespace Sys2Proof

/-! ### The opcode `6xnn` -/

theorem encode_ldVN_toNat (x : RegIdx) (nn : Byte) :
    (encode (.ldVN x nn)).toNat = 0x6000 + 256 * x.val + nn.toNat := by
  have hform : (encode (.ldVN x nn)).toNat = 6 * 4096 + x.val * 256 + nn.toNat := formXNN_toNat 0x6 x nn
  omega

theorem decode_encode_ldVN (x : RegIdx) (nn : Byte) : decode (encode (.ldVN x nn)) = .ok (.ldVN x nn) := by
  have hfam : famField (encode (.ldVN x nn)) = 0x6 := famField_formXNN 0x6 x nn
  rw [decode_of_family (by rw [hfam]; decide), decodeFamily, hfam]
  simp [encode]

end Sys2Proof

namespace Sys2Proof.Machine

/-! ### The write of one register -/

theorem exec_ldVN (x : RegIdx) (nn : Byte) (s : State) : exec (.ldVN x nn) s = .next (s.setV x nn).advance := rfl

/-- A register write and `pc <- npc` leave the other registers and every other part: the end of each instruction that
sets one register and no flag. -/
theorem frame_setV_advance (s : State) (x : RegIdx) (b : Byte) : Frame [x] [] s (s.setV x b).advance := by
  refine ⟨fun r hr => ?_, fun p _ => ?_⟩
  · rw [State.advance_getV, State.getV_setV_ne s x r b (List.ne_of_not_mem_cons hr)]
  · cases p
    case parameters => exact ⟨rfl, rfl⟩
    case memory => exact fun _ => rfl
    all_goals rfl

end Sys2Proof.Machine

namespace Sys2Proof

open Machine

/-- Settles O28: the opcode is the form XNN of family 6, and the state it leaves is `s` with one register written and
`pc` advanced. -/
theorem loadImmediateSetsTheRegister : Obligations.LoadImmediateSetsTheRegister := fun x nn s =>
  ⟨encode_ldVN_toNat x nn, decode_encode_ldVN x nn, _, exec_ldVN x nn s, s.getV_setV_self x nn, rfl,
    frame_setV_advance s x nn⟩

end Sys2Proof

/-! `CLS` (rule R150 of spec/44_display.md): the blank grid and its one event. -/

namespace Sys2Proof.Machine

theorem exec_cls (s : State) :
    exec .cls s = .next (s.setScreen Grid.blank (s.events ++ [.clearAll])).advance := rfl

/-- `pixel(x, y)` reads the grid that `setScreen` put in place, whatever was there before. -/
@[simp] theorem State.setScreen_pixel (s : State) (g : Grid) (es : List Event) (a : Fin 64) (b : Fin 32) :
    (s.setScreen g es).pixel a b = Grid.get g a b := rfl

@[simp] theorem State.advance_pixel (s : State) (a : Fin 64) (b : Fin 32) : s.advance.pixel a b = s.pixel a b := rfl

/-- A new grid, a new event queue and `pc <- npc` leave every register, `VF` included, and every other part. -/
theorem frame_setScreen_advance (s : State) (g : Grid) (es : List Event) :
    Frame [] [.pixels, .events] s (s.setScreen g es).advance := by
  refine ⟨fun r _ => rfl, fun p hp => ?_⟩
  cases p
  case pixels => exact absurd List.mem_cons_self hp
  case events => exact absurd (List.mem_cons_of_mem _ (List.mem_singleton_self _)) hp
  case parameters => exact ⟨rfl, rfl⟩
  case memory => exact fun _ => rfl
  all_goals rfl

end Sys2Proof.Machine

namespace Sys2Proof

open Machine

/-- Settles O43: `CLS` replaces the grid by the blank one, every pixel of which is unset, and the queue by itself with
one `ClearAll` at its end. -/
theorem clearUnsetsEveryPixel : Obligations.ClearUnsetsEveryPixel := by
  refine ⟨rfl, (decode_eq_cls_iff 0x00E0).mpr rfl, fun s => ?_⟩
  have hblank : ∀ a b, (s.setScreen Grid.blank (s.events ++ [.clearAll])).advance.pixel a b = false := fun a b => by
    rw [State.advance_pixel, State.setScreen_pixel, Grid.get_blank]
  exact ⟨_, exec_cls s, hblank, State.advance_events _, State.advance_pc _, frame_setScreen_advance s _ _⟩

end Sys2Proof

/-! Decode and encode (rules R63 to R74 of spec/30_encoding.md): the round trip both ways, and exactly which opcodes the
decoder rejects. -/

namespace Sys2Proof

/-- Settles O3: each of the four words is a closed term the decoder evaluates. -/
theorem documentedOpcodesDecode : Obligations.DocumentedOpcodesDecode := ⟨rfl, rfl, rfl, rfl⟩

/-! ### Decoding an encoded instruction

Each family reads its fields back from the form its instructions are encoded in. -/

theorem decode_formNNN {f : Nibble} (nnn : BitVec 12) (hf : f ≠ 0x0) :
    decode (formNNN f nnn) = decodeFamily (formNNN f nnn) :=
  decode_of_family (by rwa [famField_formNNN])

theorem decode_formXNN {f : Nibble} (x : RegIdx) (nn : Byte) (hf : f ≠ 0x0) :
    decode (formXNN f x nn) = decodeFamily (formXNN f x nn) :=
  decode_of_family (by rwa [famField_formXNN])

theorem decode_formXYN {f : Nibble} (x y : RegIdx) (n : Nibble) (hf : f ≠ 0x0) :
    decode (formXYN f x y n) = decodeFamily (formXYN f x y n) :=
  decode_of_family (by rwa [famField_formXYN])

/-- The row count of a well-formed `DRW` survives its 4-bit field. -/
theorem toNat_ofNat_of_rowsFit {n : Nat} (h : rowsFit n = true) : (BitVec.ofNat 4 n).toNat = n := by
  have hn : n ≤ 15 := of_decide_eq_true h
  rw [BitVec.toNat_ofNat]
  omega

/-- Settles O4: the two literals evaluate; every other encoding is a form of a family other than 0, and the arm of that
family reads back the operands. The row count of `DRW` is the one operand that needs `wf`. -/
theorem decodeOfEncodeGivesTheInstruction : Obligations.DecodeOfEncodeGivesTheInstruction := by
  intro i hwf
  cases i
  case cls => rfl
  case ret => rfl
  case drw x y n =>
    rw [encode, decode_formXYN x y _ (by decide)]
    simp [decodeFamily, toNat_ofNat_of_rowsFit hwf]
  case jp nnn | call nnn | ldIN nnn =>
    rw [encode, decode_formNNN nnn (by decide)]
    simp [decodeFamily]
  case seVV x y | sneVV x y | ldVV x y | orVV x y | andVV x y | xorVV x y | addVV x y | subVV x y | shrVV x y |
      subnVV x y =>
    rw [encode, decode_formXYN x y _ (by decide)]
    simp [decodeFamily, decodeAlu]
  case seVN x nn | sneVN x nn | ldVN x nn | addVN x nn | rndVN x nn =>
    rw [encode, decode_formXNN x nn (by decide)]
    simp [decodeFamily]
  case skp x | sknp x =>
    rw [encode, decode_formXNN x _ (by decide)]
    simp [decodeFamily, decodeKey]
  case ldVDT x | ldVK x | ldDTV x | ldSTV x | addIV x | bcd x | dump x | load x =>
    rw [encode, decode_formXNN x _ (by decide)]
    simp [decodeFamily, decodeMisc]

/-! ### Encoding a decoded opcode

An opcode is put together again from its fields, in each of the three forms. -/

theorem formNNN_fields (op : Word) : formNNN (famField op) (nnnField op) = op := by
  apply BitVec.eq_of_toNat_eq
  rw [formNNN_toNat, famField_toNat, nnnField_toNat]
  omega

theorem formXNN_fields (op : Word) : formXNN (famField op) (xField op) (nnField op) = op := by
  apply BitVec.eq_of_toNat_eq
  rw [formXNN_toNat, famField_toNat, xField_val, nnField_toNat]
  omega

theorem formXYN_fields (op : Word) : formXYN (famField op) (xField op) (yField op) (nField op) = op := by
  apply BitVec.eq_of_toNat_eq
  rw [formXYN_toNat, famField_toNat, xField_val, yField_val, nField_toNat]
  omega

/-- Clearing the low nibble of an opcode subtracts it. -/
theorem toNat_and_FFF0 (op : Word) : (op &&& 0xFFF0).toNat = op.toNat / 16 * 16 := by
  have hop : op &&& (0xFFF0 : Word) = (op >>> 4) <<< 4 := by
    apply BitVec.eq_of_getLsbD_eq
    intro k hk
    rw [BitVec.getLsbD_and, BitVec.getLsbD_shiftLeft, BitVec.getLsbD_ushiftRight]
    interval_cases k <;> simp
  have := op.isLt
  rw [hop, BitVec.toNat_shiftLeft, BitVec.toNat_ushiftRight, Nat.shiftLeft_eq, Nat.shiftRight_eq_div_pow]
  omega

/-- Families 5 and 9 encode the nibble they ignore as 0 (rule R69). -/
theorem formXYN_zero_fields (op : Word) : formXYN (famField op) (xField op) (yField op) 0x0 = op &&& 0xFFF0 := by
  apply BitVec.eq_of_toNat_eq
  rw [formXYN_toNat, famField_toNat, xField_val, yField_val, toNat_and_FFF0]
  show _ + 0 = _
  omega

theorem encode_of_decodeAlu {op : Word} {i : Instr} (hf : famField op = 0x8) (h : decodeAlu op = .ok i) :
    i.wf = true ∧ encode i = op := by
  have hop := formXYN_fields op
  rw [hf] at hop
  unfold decodeAlu at h
  split at h <;> cases h
  all_goals
    rename_i hn
    rw [hn] at hop
    exact ⟨rfl, hop⟩

theorem encode_of_decodeKey {op : Word} {i : Instr} (hf : famField op = 0xE) (h : decodeKey op = .ok i) :
    i.wf = true ∧ encode i = op := by
  have hop := formXNN_fields op
  rw [hf] at hop
  unfold decodeKey at h
  split at h <;> cases h
  all_goals
    rename_i hnn
    rw [hnn] at hop
    exact ⟨rfl, hop⟩

theorem encode_of_decodeMisc {op : Word} {i : Instr} (hf : famField op = 0xF) (h : decodeMisc op = .ok i) :
    i.wf = true ∧ encode i = op := by
  have hop := formXNN_fields op
  rw [hf] at hop
  unfold decodeMisc at h
  split at h <;> cases h
  all_goals
    rename_i hnn
    rw [hnn] at hop
    exact ⟨rfl, hop⟩

theorem rowsFit_nField (op : Word) : rowsFit (nField op).toNat = true :=
  decide_eq_true (Nat.le_of_lt_succ (nField op).isLt)

/-- The two families that ignore their low nibble. -/
theorem encode_of_decodeFamily_skip {op : Word} {i : Instr} (hf : famField op = 0x5 ∨ famField op = 0x9)
    (h : decodeFamily op = .ok i) : i.wf = true ∧ encode i = op &&& 0xFFF0 := by
  have hop := formXYN_zero_fields op
  unfold decodeFamily at h
  obtain hf | hf := hf
  all_goals
    rw [hf] at h hop
    cases h
    exact ⟨rfl, hop⟩

/-- What any other family decodes is encoded in that family's form, from the fields of the opcode. -/
theorem encode_of_decodeFamily {op : Word} {i : Instr} (h5 : famField op ≠ 0x5) (h9 : famField op ≠ 0x9)
    (h : decodeFamily op = .ok i) : i.wf = true ∧ encode i = op := by
  have hNNN := formNNN_fields op
  have hXNN := formXNN_fields op
  have hXYN := formXYN_fields op
  unfold decodeFamily at h
  split at h
  case h_6 hf => exact absurd hf h5
  case h_10 hf => exact absurd hf h9
  case h_9 hf => exact encode_of_decodeAlu hf h
  case h_14 hf => exact encode_of_decodeKey hf h
  case h_15 hf => exact encode_of_decodeMisc hf h
  case h_1 | h_16 => cases h
  case h_13 hf =>
    cases h
    rw [hf] at hXYN
    exact ⟨rowsFit_nField op, by rw [encode, BitVec.ofNat_toNat, BitVec.setWidth_eq]; exact hXYN⟩
  case h_2 hf | h_3 hf | h_11 hf =>
    cases h
    rw [hf] at hNNN
    exact ⟨rfl, hNNN⟩
  case h_4 hf | h_5 hf | h_7 hf | h_8 hf | h_12 hf =>
    cases h
    rw [hf] at hXNN
    exact ⟨rfl, hXNN⟩

/-- Settles O5: an opcode that decodes is one of the two literals, or its family puts its fields together again. -/
theorem encodeOfDecodeGivesTheOpcode : Obligations.EncodeOfDecodeGivesTheOpcode := by
  intro op i h
  obtain ⟨rfl, rfl⟩ | ⟨rfl, rfl⟩ | ⟨-, -, hfam⟩ := decode_ok_cases h
  · exact ⟨rfl, rfl⟩
  · exact ⟨rfl, rfl⟩
  · split
    case isTrue hf => exact encode_of_decodeFamily_skip hf hfam
    case isFalse hf => exact encode_of_decodeFamily (fun h5 => hf (.inl h5)) (fun h9 => hf (.inr h9)) hfam

/-! ### The rejected opcodes (rules R65 to R71) -/

/-- The low bytes of family F that have an instruction (rule R68). -/
def miscBytes : List Byte := [0x07, 0x0A, 0x15, 0x18, 0x1E, 0x33, 0x55, 0x65]

/-- The opcodes of a recognised family with no instruction there (rule R71). -/
def Unimplemented (op : Word) : Prop :=
  famField op = 0x0 ∧ op ≠ 0x00E0 ∧ op ≠ 0x00EE ∨
  famField op = 0x8 ∧ 8 ≤ (nField op).toNat ∨
  famField op = 0xE ∧ nnField op ≠ 0x9E ∧ nnField op ≠ 0xA1 ∨
  famField op = 0xF ∧ nnField op ∉ miscBytes

theorem decodeAlu_error_iff (op : Word) (e : DecodeError) :
    decodeAlu op = .error e ↔ 8 ≤ (nField op).toNat ∧ .unimplementedOpcode op = e := by
  unfold decodeAlu
  split
  case h_9 =>
    have hn : 8 ≤ (nField op).toNat := by
      simp only [imp_false] at *
      bv_omega
    simp [hn]
  all_goals simp_all

theorem decodeKey_error_iff (op : Word) (e : DecodeError) :
    decodeKey op = .error e ↔ (nnField op ≠ 0x9E ∧ nnField op ≠ 0xA1) ∧ .unimplementedOpcode op = e := by
  unfold decodeKey
  split <;> simp_all

theorem decodeMisc_error_iff (op : Word) (e : DecodeError) :
    decodeMisc op = .error e ↔ nnField op ∉ miscBytes ∧ .unimplementedOpcode op = e := by
  unfold decodeMisc
  split <;> simp_all [miscBytes]

theorem decodeFamily_error_iff {op : Word} (hcls : op ≠ 0x00E0) (hret : op ≠ 0x00EE) (e : DecodeError) :
    decodeFamily op = .error e ↔
      famField op = 0xB ∧ .invalidOpcode op = e ∨ Unimplemented op ∧ .unimplementedOpcode op = e := by
  unfold decodeFamily Unimplemented
  split
  case h_9 hf => simp [hf, decodeAlu_error_iff]
  case h_14 hf => simp [hf, decodeKey_error_iff]
  case h_15 hf => simp [hf, decodeMisc_error_iff]
  case h_16 =>
    have hB : famField op = 0xB := by
      simp only [imp_false] at *
      bv_omega
    simp [hB]
  all_goals simp_all

/-- A decode fault is `InvalidOpcode` in family B, or `UnimplementedOpcode` where a family has no instruction. -/
theorem decode_error_iff (op : Word) (e : DecodeError) :
    decode op = .error e ↔
      famField op = 0xB ∧ .invalidOpcode op = e ∨ Unimplemented op ∧ .unimplementedOpcode op = e := by
  unfold decode
  split
  case isTrue hcls => simp [hcls, Unimplemented, famField]
  case isFalse hcls =>
    split
    case isTrue hret => simp [hret, Unimplemented, famField]
    case isFalse hret => exact decodeFamily_error_iff hcls hret e

/-- Settles O6: the two faults and their opcodes, read off `decode_error_iff`. -/
theorem rejectedOpcodesAreTheListedOnes : Obligations.RejectedOpcodesAreTheListedOnes := by
  intro op
  refine ⟨by simp [decode_error_iff], by simp [decode_error_iff, Unimplemented, miscBytes], fun e he => ?_⟩
  obtain ⟨-, h⟩ | ⟨-, h⟩ := (decode_error_iff op e).mp he
  · exact .inl h.symm
  · exact .inr h.symm

end Sys2Proof

/-! The meaning of each instruction, one equation a branch, and what follows from a changed `pc`. -/

namespace Sys2Proof.Machine

/-! ### Instructions with one branch -/

theorem exec_jp (nnn : BitVec 12) (s : State) : exec (.jp nnn) s = .next (s.setPc (zextAddr nnn)) := rfl

theorem exec_seVN (x : RegIdx) (nn : Byte) (s : State) :
    exec (.seVN x nn) s = .next (s.skipIf (decide (s.getV x = nn))) := rfl

theorem exec_sneVN (x : RegIdx) (nn : Byte) (s : State) :
    exec (.sneVN x nn) s = .next (s.skipIf (decide (s.getV x ≠ nn))) := rfl

theorem exec_seVV (x y : RegIdx) (s : State) :
    exec (.seVV x y) s = .next (s.skipIf (decide (s.getV x = s.getV y))) := rfl

theorem exec_sneVV (x y : RegIdx) (s : State) :
    exec (.sneVV x y) s = .next (s.skipIf (decide (s.getV x ≠ s.getV y))) := rfl

theorem exec_skp (x : RegIdx) (s : State) :
    exec (.skp x) s = .next ((s.setLatch none).skipIf (decide (s.getV x = latchByte s))) := rfl

theorem exec_sknp (x : RegIdx) (s : State) :
    exec (.sknp x) s = .next ((s.setLatch none).skipIf (decide (s.getV x ≠ latchByte s))) := rfl

theorem exec_addVN (x : RegIdx) (nn : Byte) (s : State) :
    exec (.addVN x nn) s = .next (s.setV x (s.getV x + nn)).advance := rfl

theorem exec_rndVN (x : RegIdx) (nn : Byte) (s : State) :
    exec (.rndVN x nn) s = .next (s.countDraw.setV x (Config.rnd s.draws &&& nn)).advance := rfl

theorem exec_ldVV (x y : RegIdx) (s : State) : exec (.ldVV x y) s = .next (s.setV x (s.getV y)).advance := rfl

theorem exec_orVV (x y : RegIdx) (s : State) :
    exec (.orVV x y) s = .next (s.setV x (s.getV x ||| s.getV y)).advance := rfl

theorem exec_andVV (x y : RegIdx) (s : State) :
    exec (.andVV x y) s = .next (s.setV x (s.getV x &&& s.getV y)).advance := rfl

theorem exec_xorVV (x y : RegIdx) (s : State) :
    exec (.xorVV x y) s = .next (s.setV x (s.getV x ^^^ s.getV y)).advance := rfl

theorem exec_addVV (x y : RegIdx) (s : State) : exec (.addVV x y) s =
    .next (s.setFlagThen (carryFlag (s.getV x) (s.getV y)) x (s.getV x + s.getV y)).advance := rfl

theorem exec_subVV (x y : RegIdx) (s : State) : exec (.subVV x y) s =
    .next (s.setFlagThen (borrowFlag (s.getV x) (s.getV y)) x (loByte (wideDiff (s.getV x) (s.getV y)))).advance :=
  rfl

theorem exec_shrVV (x y : RegIdx) (s : State) : exec (.shrVV x y) s =
    .next (s.setFlagThen (shiftedOutFlag (s.shiftSource x y)) x (s.shiftSource x y >>> 1)).advance := rfl

theorem exec_subnVV (x y : RegIdx) (s : State) :
    exec (.subnVV x y) s = .next (s.setV x (s.getV y - s.getV x)).advance := rfl

theorem exec_ldIN (nnn : BitVec 12) (s : State) : exec (.ldIN nnn) s = .next (s.setI (zextAddr nnn)).advance := rfl

theorem exec_ldVDT (x : RegIdx) (s : State) : exec (.ldVDT x) s = .next (s.setV x s.DT).advance := rfl

theorem exec_ldVK (x : RegIdx) (s : State) :
    exec (.ldVK x) s = .next ((s.setLatch none).setV x (latchByte s)).advance := rfl

theorem exec_ldDTV (x : RegIdx) (s : State) : exec (.ldDTV x) s = .next (s.setDT (s.getV x)).advance := rfl

theorem exec_ldSTV (x : RegIdx) (s : State) : exec (.ldSTV x) s = .next (s.setST (s.getV x)).advance := rfl

/-! ### Instructions that complete or raise -/

theorem exec_addIV_of_ne {x : RegIdx} (s : State) (hx : x ≠ VF) :
    exec (.addIV x) s = .next (s.setI (s.I + (s.getV x).setWidth 16)).advance :=
  congrArg _ (if_neg hx)

theorem exec_addIV_VF (s : State) : exec (.addIV VF) s = .next (raise .reservedOperandMisuse 0xFF1E s) := rfl

theorem exec_bcd (x : RegIdx) (s : State) : exec (.bcd x) s = .next (storeAtI (bcdDigits (s.getV x)) s) := rfl

theorem exec_dump (x : RegIdx) (s : State) : exec (.dump x) s = .next (storeAtI (s.regsUpTo x) s) := rfl

theorem storeAtI_of_fits {s : State} {bs : List Byte} (h : s.I.toNat + bs.length ≤ s.endAddr) :
    storeAtI bs s = (s.setMem (s.mem.writeList s.I.toNat bs)).advance := by
  obtain ⟨-, e⟩ | ⟨-, hlt, -⟩ := storeAtI_cases s bs
  · exact e
  · exact absurd h hlt.not_ge

theorem storeAtI_of_overruns {s : State} {bs : List Byte} (hbs : bs.length ≠ 0)
    (h : s.endAddr < s.I.toNat + bs.length) :
    storeAtI bs s = raise .addressOutOfBounds (max s.I.toNat s.endAddr) s := by
  obtain ⟨h0 | hle, -⟩ | ⟨-, -, e⟩ := storeAtI_cases s bs
  · exact absurd h0 hbs
  · exact absurd hle h.not_ge
  · exact e

theorem memRead_of_fits {s : State} {n : Nat} (h : n = 0 ∨ s.I.toNat + n ≤ s.endAddr) :
    s.memRead s.base n = .ok (s.mem.readList s.I.toNat n) := by
  obtain ⟨-, e⟩ | ⟨hn, hlt, -⟩ := s.memRead_cases s.base n
  · exact e
  · exact absurd hlt (h.resolve_left hn).not_gt

theorem memRead_of_overruns {s : State} {n : Nat} (hn : n ≠ 0) (h : s.endAddr < s.I.toNat + n) :
    s.memRead s.base n = .error (max s.I.toNat s.endAddr) := by
  obtain ⟨h0 | hle, -⟩ | ⟨-, -, e⟩ := s.memRead_cases s.base n
  · exact absurd h0 hn
  · exact absurd hle h.not_ge
  · exact e

theorem exec_load_of_fits {x : RegIdx} {s : State} (h : s.I.toNat + x.val + 1 ≤ s.endAddr) :
    exec (.load x) s =
      .next (s.setRegs (loadFrom s.V 0 (s.mem.readList s.I.toNat (x.val + 1)))).advance := by
  rw [exec, execLoad, memRead_of_fits (.inr h)]

theorem exec_load_of_overruns {x : RegIdx} {s : State} (h : s.endAddr < s.I.toNat + x.val + 1) :
    exec (.load x) s = .next (raise .addressOutOfBounds (max s.I.toNat s.endAddr) s) := by
  rw [exec, execLoad, memRead_of_overruns (Nat.succ_ne_zero _) h]

/-- The pixels `DRW Vx, Vy, n` toggles, in its order (rule R151). -/
def drawTargets (s : State) (x y : RegIdx) (n : Nat) : List (Fin 64 × Fin 32) :=
  spriteTargets (s.getV x).toNat (s.getV y).toNat (s.mem.readList s.I.toNat n)

theorem exec_drw_of_fits {n : Nat} {s : State} (x y : RegIdx) (h : n = 0 ∨ s.I.toNat + n ≤ s.endAddr) :
    exec (.drw x y n) s = .next (s.finishDraw (s.canvas.draw (drawTargets s x y n))) := by
  rw [exec, execDrw, memRead_of_fits h]
  rfl

theorem exec_drw_of_overruns {n : Nat} {s : State} (x y : RegIdx) (hn : n ≠ 0) (h : s.endAddr < s.I.toNat + n) :
    exec (.drw x y n) s = .next (raise .addressOutOfBounds (max s.I.toNat s.endAddr) s) := by
  rw [exec, execDrw, memRead_of_overruns hn h]

/-! ### The frame of an instruction that completes

A raise leaves `pc` where it is (rule R172), so an instruction that moves `pc` completed, and its frame is the general
one. -/

theorem exec_frame_of_pc_ne {i : Instr} {s t : State} (h : exec i s = .next t) (hpc : t.pc ≠ s.pc) :
    Frame (regsWritten i) (partsWritten i) s t := by
  obtain ⟨u, hu, hcases⟩ := exec_raises_or_frames i s
  obtain rfl : u = t := by simpa [hu] using h
  obtain ⟨k, info, rfl⟩ | hframe := hcases
  · exact absurd (raise_pc s k info) hpc
  · exact hframe

theorem add_two_ne_self (p : Word) : p + 2 ≠ p := by bv_omega

theorem add_four_ne_self (p : Word) : p + 4 ≠ p := by bv_omega

theorem exec_frame_of_advance {i : Instr} {s t : State} (h : exec i s = .next t) (hpc : t.pc = s.pc + 2) :
    Frame (regsWritten i) (partsWritten i) s t :=
  exec_frame_of_pc_ne h (hpc ▸ add_two_ne_self s.pc)

theorem exec_frame_of_skip {i : Instr} {s t : State} {c : Prop} [Decidable c] (h : exec i s = .next t)
    (hpc : t.pc = if c then s.pc + 4 else s.pc + 2) : Frame (regsWritten i) (partsWritten i) s t := by
  refine exec_frame_of_pc_ne h ?_
  rw [hpc]
  split
  · exact add_four_ne_self s.pc
  · exact add_two_ne_self s.pc

theorem Frame.mono {regs regs' : List RegIdx} {parts : List Part} {s t : State} (h : Frame regs parts s t)
    (hsub : ∀ r ∈ regs, r ∈ regs') : Frame regs' parts s t :=
  ⟨fun r hr => h.left r (fun hmem => hr (hsub r hmem)), h.right⟩

/-- What an instruction leaves of the parts it does not list, whether it completes or raises. -/
theorem exec_part_same {i : Instr} {s t : State} {p : Part} (h : exec i s = .next t) (hp : p ∉ partsWritten i)
    (hrun : p ≠ .run) : p.same s t := by
  obtain ⟨u, hu, hcases⟩ := exec_raises_or_frames i s
  obtain rfl : u = t := by simpa [hu] using h
  obtain ⟨k, info, rfl⟩ | ⟨-, hparts⟩ := hcases
  · cases p
    case run => exact absurd rfl hrun
    case parameters => exact ⟨rfl, rfl⟩
    case memory => exact fun _ => rfl
    all_goals rfl
  · exact hparts p hp

theorem exec_parameters {i : Instr} {s t : State} (h : exec i s = .next t) :
    t.endAddr = s.endAddr ∧ t.cfg = s.cfg :=
  exec_part_same (p := .parameters) h (by cases i <;> simp [partsWritten]) nofun

/-- An executed instruction that changes `run` raised, and changed nothing else. -/
theorem exec_raises_of_run_ne {i : Instr} {s t : State} (h : exec i s = .next t) (hrun : t.run ≠ s.run) :
    ∃ k info, t = raise k info s := by
  obtain ⟨u, hu, hcases⟩ := exec_raises_or_frames i s
  obtain rfl : u = t := by simpa [hu] using h
  obtain hraise | ⟨-, hparts⟩ := hcases
  · exact hraise
  · exact absurd (hparts .run (by cases i <;> simp [partsWritten])) hrun

end Sys2Proof.Machine

/-! The cycle (rules R100, R171 to R174): its stages, its faults, and `run`. -/

namespace Sys2Proof.Machine

/-! ### The stages of a step -/

theorem step_of_not_running {s : State} (h : s.run ≠ .running) : step s = .next s := by
  unfold step
  split
  · rfl
  · contradiction

theorem step_of_stop {s t : State} (hrun : s.run = .running) (h : fetchDecode s = .stop t) : step s = .next t := by
  unfold step
  rw [hrun]
  simp only [h]

theorem step_of_run {s : State} {i : Instr} (hrun : s.run = .running) (h : fetchDecode s = .run i) :
    step s = exec i s := by
  unfold step
  rw [hrun]
  simp only [h]

/-- The opcode of two bytes, as the number the statements give it by. -/
theorem eq_opcodeOf_of_toNat {op : Word} {hi lo : Byte} (h : op.toNat = 256 * hi.toNat + lo.toNat) :
    op = opcodeOf hi lo := by
  apply BitVec.eq_of_toNat_eq
  rw [opcodeOf_toNat, h]
  omega

theorem fetch_of_fits {s : State} {op : Word} (hfits : s.pc.toNat + 1 < s.endAddr)
    (hop : op = opcodeOf (s.mem.read s.pc.toNat) (s.mem.read (s.pc.toNat + 1))) : s.fetch = .ok op := by
  obtain ⟨-, hf⟩ | ⟨hlt, -⟩ := s.fetch_cases
  · rw [hf, hop]
  · omega

theorem step_of_fetch_overruns {s : State} (hrun : s.run = .running) (h : s.endAddr ≤ s.pc.toNat + 1) :
    step s = .next (raise .addressOutOfBounds (max s.pc.toNat s.endAddr) s) := by
  obtain ⟨hle, -⟩ | ⟨-, hf⟩ := s.fetch_cases
  · omega
  · exact step_of_stop hrun (by simp only [fetchDecode, hf])

theorem step_of_decode_error {s : State} {op : Word} {e : DecodeError} (hrun : s.run = .running)
    (hf : s.fetch = .ok op) (hd : decode op = .error e) : step s = .next (raiseDecode e s) :=
  step_of_stop hrun (by simp only [fetchDecode, hf, hd])

theorem step_of_decode_ok {s : State} {op : Word} {i : Instr} (hrun : s.run = .running)
    (hf : s.fetch = .ok op) (hd : decode op = .ok i) : step s = exec i s :=
  step_of_run hrun (by simp only [fetchDecode, hf, hd])

/-- A step raises and changes nothing else, does nothing, or is an executed instruction: the form in which an invariant
of `exec` becomes one of `step`. -/
theorem step_raises_or_execs {s t : State} (h : step s = .next t) :
    t = s ∨ (∃ k info, t = raise k info s) ∨ ∃ i, exec i s = .next t := by
  obtain ⟨k, info, -, rfl⟩ | ⟨-, -, rfl⟩ | ⟨op, e, -, -, -, rfl⟩ | ⟨op, i, -, -, -, hexec⟩ := step_cases h
  · exact .inl rfl
  · exact .inr (.inl ⟨_, _, rfl⟩)
  · exact .inr (.inl (raiseDecode_eq e s))
  · exact .inr (.inr ⟨i, hexec⟩)

theorem step_raises_of_run_ne {s t : State} (h : step s = .next t) (hrun : t.run ≠ s.run) :
    ∃ k info, t = raise k info s := by
  obtain rfl | hraise | ⟨i, hexec⟩ := step_raises_or_execs h
  · exact absurd rfl hrun
  · exact hraise
  · exact exec_raises_of_run_ne hexec hrun

/-! ### What no instruction reads

`run`, the event queue and the sound timer (rules R22, R20, R162): an instruction does the same whatever they hold. It
keeps each, or writes the same value to it, or adds the same events. -/

/-- `s` with other values in the three parts no instruction reads. -/
def State.withUnread (s : State) (r : RunState) (es : List Event) (v : Byte) : State :=
  { s with run := r, events := es, ST := v }

/-- From `a` to `b` and from `a'` to `b'`: kept both times, or the same value written both times. -/
def KeptOrSame {α : Type} (a b a' b' : α) : Prop := b = a ∧ b' = a' ∨ b' = b

/-- `i` does the same from `s` and from `s` with other unread parts. -/
def ReadsNone (i : Instr) (s : State) (r : RunState) (es : List Event) (v : Byte) : Prop :=
  ∃ t r' es' v', exec i s = .next t ∧ exec i (s.withUnread r es v) = .next (t.withUnread r' es' v') ∧
    KeptOrSame s.run t.run r r' ∧ KeptOrSame s.ST t.ST v v' ∧
    ∃ added, t.events = s.events ++ added ∧ es' = es ++ added

section
variable {i : Instr} {s t : State} {r : RunState} {es : List Event} {v : Byte}

theorem readsNone_of_raises {k : FaultKind} {info : Nat} (h : exec i s = .next (raise k info s))
    (h' : exec i (s.withUnread r es v) = .next (raise k info (s.withUnread r es v))) : ReadsNone i s r es v :=
  ⟨_, .halted k info, es, v, h, h', .inr rfl, .inl ⟨rfl, rfl⟩, [], (List.append_nil _).symm,
    (List.append_nil _).symm⟩

theorem readsNone_of_keeps (h : exec i s = .next t) (h' : exec i (s.withUnread r es v) = .next (t.withUnread r es v))
    (hrun : t.run = s.run) (hST : t.ST = s.ST) (hevents : t.events = s.events) : ReadsNone i s r es v :=
  ⟨t, r, es, v, h, h', .inl ⟨hrun, rfl⟩, .inl ⟨hST, rfl⟩, [], by rw [hevents, List.append_nil],
    (List.append_nil _).symm⟩

theorem readsNone_of_stores {bs : List Byte} (hbs : bs.length ≠ 0) (h : exec i s = .next (storeAtI bs s))
    (h' : exec i (s.withUnread r es v) = .next (storeAtI bs (s.withUnread r es v))) : ReadsNone i s r es v := by
  obtain hover | hfits := Nat.lt_or_ge s.endAddr (s.I.toNat + bs.length)
  · rw [storeAtI_of_overruns hbs hover] at h
    rw [storeAtI_of_overruns (s := s.withUnread r es v) hbs hover] at h'
    exact readsNone_of_raises h h'
  · rw [storeAtI_of_fits hfits] at h
    rw [storeAtI_of_fits (s := s.withUnread r es v) hfits] at h'
    exact readsNone_of_keeps h h' rfl rfl rfl

/-- The compositor adds events to the queue without reading it. -/
theorem Canvas.draw_withEvents (c : Canvas) (es : List Event) (ps : List (Fin 64 × Fin 32)) :
    ∃ added, (c.draw ps).events = c.events ++ added ∧
      Canvas.draw { c with events := es } ps = { c.draw ps with events := es ++ added } := by
  induction ps generalizing c es with
  | nil => exact ⟨[], (List.append_nil _).symm, by rw [List.append_nil]; rfl⟩
  | cons p ps ih =>
    obtain ⟨added, h, h'⟩ := ih (c.toggle p) (es ++ [.pixel p.1 p.2 (!(Grid.get c.pixels p.1 p.2))])
    refine ⟨.pixel p.1 p.2 (!(Grid.get c.pixels p.1 p.2)) :: added, ?_, ?_⟩
    · rw [Canvas.draw_cons, h]
      exact List.append_assoc _ _ _
    · rw [Canvas.draw_cons, Canvas.draw_cons, List.append_cons]
      exact h'

theorem exec_readsNone (i : Instr) (s : State) (r : RunState) (es : List Event) (v : Byte) :
    ReadsNone i s r es v := by
  cases i
  case ret =>
    cases hs : s.stack with
    | nil => exact readsNone_of_raises (exec_ret_of_stack_nil hs) (exec_ret_of_stack_nil hs)
    | cons top rest => exact readsNone_of_keeps (exec_ret_of_stack_cons hs) (exec_ret_of_stack_cons hs) rfl rfl rfl
  case call nnn =>
    by_cases hfull : s.stackFull = true
    · exact readsNone_of_raises (exec_call_of_stackFull nnn hfull) (exec_call_of_stackFull nnn hfull)
    · exact readsNone_of_keeps (exec_call_of_not_stackFull nnn hfull) (exec_call_of_not_stackFull nnn hfull)
        rfl rfl rfl
  case addIV x =>
    by_cases hx : x = VF
    · subst hx
      exact readsNone_of_raises (exec_addIV_VF s) (exec_addIV_VF _)
    · exact readsNone_of_keeps (exec_addIV_of_ne s hx) (exec_addIV_of_ne _ hx) rfl rfl rfl
  case bcd x => exact readsNone_of_stores (bs := bcdDigits (s.getV x)) (Nat.succ_ne_zero _) (exec_bcd x s) (exec_bcd x _)
  case dump x =>
    exact readsNone_of_stores (by rw [s.regsUpTo_length x]; exact Nat.succ_ne_zero _) (exec_dump x s) (exec_dump x _)
  case load x =>
    obtain hover | hfits := Nat.lt_or_ge s.endAddr (s.I.toNat + x.val + 1)
    · exact readsNone_of_raises (exec_load_of_overruns hover) (exec_load_of_overruns hover)
    · exact readsNone_of_keeps (exec_load_of_fits hfits) (exec_load_of_fits hfits) rfl rfl rfl
  case drw x y n =>
    by_cases hfits : n = 0 ∨ s.I.toNat + n ≤ s.endAddr
    · obtain ⟨added, hadded, hdraw⟩ := Canvas.draw_withEvents s.canvas es (drawTargets s x y n)
      refine ⟨_, r, es ++ added, v, exec_drw_of_fits x y hfits, ?_, .inl ⟨rfl, rfl⟩, .inl ⟨rfl, rfl⟩, added, hadded,
        rfl⟩
      rw [exec_drw_of_fits (s := s.withUnread r es v) x y hfits]
      exact congrArg (fun c => Host.Outcome.next ((s.withUnread r es v).finishDraw c)) hdraw
    · obtain ⟨hn, hover⟩ := not_or.mp hfits
      exact readsNone_of_raises (exec_drw_of_overruns x y hn (not_le.mp hover))
        (exec_drw_of_overruns x y hn (not_le.mp hover))
  case cls =>
    exact ⟨_, r, es ++ [.clearAll], v, exec_cls s, exec_cls _, .inl ⟨rfl, rfl⟩, .inl ⟨rfl, rfl⟩, _, rfl, rfl⟩
  case ldSTV x =>
    exact ⟨_, r, es, s.getV x, exec_ldSTV x s, exec_ldSTV x _, .inl ⟨rfl, rfl⟩, .inr rfl, [],
      (List.append_nil _).symm, (List.append_nil _).symm⟩
  all_goals exact readsNone_of_keeps rfl rfl rfl rfl rfl

end

/-- Another value of `run` before an instruction makes no difference to what it leaves in the rest of the state. -/
theorem exec_setRun (i : Instr) (s : State) (r : RunState) :
    ∃ t r', exec i s = .next t ∧ exec i (s.setRun r) = .next (t.setRun r') := by
  obtain ⟨t, r', es', v', h, h', -, hST, added, hevents, rfl⟩ := exec_readsNone i s r s.events s.ST
  have hv : v' = t.ST := by
    obtain ⟨hkept, rfl⟩ | hsame := hST
    · exact hkept.symm
    · exact hsame
  rw [← hevents, hv] at h'
  exact ⟨t, r', h, h'⟩

/-! ### Halting and the host's actions -/

theorem perform_of_keepsRun_of_not_running {a : HostAction} {s : State} (ha : a.keepsRun = true)
    (h : s.run ≠ .running) : ∃ t r, perform a s = .next (t, r) ∧ t.run = s.run := by
  cases a
  case reset l => cases ha
  case step => exact ⟨s, .ran s.run, by rw [perform, step_of_not_running h], rfl⟩
  case tick => exact ⟨_, _, rfl, rfl⟩
  case pushKey k => exact ⟨_, _, rfl, rfl⟩
  case drain => exact ⟨_, _, rfl, rfl⟩

theorem performAll_cons {a : HostAction} {as : List HostAction} {s t u : State} {r : HostResult}
    {rs : List HostResult} (h : perform a s = .next (t, r)) (hs : performAll as t = .next (u, rs)) :
    performAll (a :: as) s = .next (u, r :: rs) := by
  simp only [performAll, h, hs]

/-- No sequence of host actions but a reset moves a halted engine. -/
theorem performAll_of_halted {k : FaultKind} {info : Nat} (as : List HostAction) (s : State)
    (has : ∀ a ∈ as, a.keepsRun = true) (h : s.run = .halted k info) :
    ∃ t rs, performAll as s = .next (t, rs) ∧ t.run = .halted k info := by
  induction as generalizing s with
  | nil => exact ⟨s, [], rfl, h⟩
  | cons a as ih =>
    obtain ⟨ha, has⟩ := List.forall_mem_cons.mp has
    obtain ⟨t, r, hperform, hrun⟩ := perform_of_keepsRun_of_not_running ha (by rw [h]; exact nofun)
    obtain ⟨u, rs, hall, hu⟩ := ih t has (hrun.trans h)
    exact ⟨u, r :: rs, performAll_cons hperform hall, hu⟩

/-! ### The faults of the execute stage (rules R170, R174) -/

section
variable {s t : State} {k : FaultKind} {info : Nat}

theorem State.stackFull_iff (s : State) : s.stackFull = true ↔ s.cfg.stackDepth = some s.stack.length := by
  unfold State.stackFull
  split <;> simp_all [eq_comm]

theorem encode_call_toNat (nnn : BitVec 12) : (encode (.call nnn)).toNat = 0x2000 + nnn.toNat :=
  formNNN_toNat 0x2 nnn

/-- An outcome known to be a raise gives its kind and its info. -/
theorem fault_of_raise {k' : FaultKind} {info' : Nat} {o : Host.Outcome State Fault Refusal}
    (h : o = .next (raise k' info' s)) (ht : o = .next t) (hk : t.run = .halted k info) : k = k' ∧ info = info' := by
  rw [h] at ht
  cases ht
  cases hk
  exact ⟨rfl, rfl⟩

/-- An outcome that keeps `run` is none of a halted engine. -/
theorem not_halted_of_keeps {u : State} {o : Host.Outcome State Fault Refusal} (hrun : s.run = .running)
    (h : o = .next u) (hu : u.run = s.run) (ht : o = .next t) : t.run ≠ .halted k info := by
  rw [h] at ht
  cases ht
  rw [hu, hrun]
  exact nofun

theorem storeAtI_fault {bs : List Byte} (hrun : s.run = .running) (hbs : bs.length ≠ 0)
    (hk : (storeAtI bs s).run = .halted k info) :
    k = .addressOutOfBounds ∧ info = max s.I.toNat s.endAddr ∧ s.endAddr < s.I.toNat + bs.length := by
  obtain hover | hfits := Nat.lt_or_ge s.endAddr (s.I.toNat + bs.length)
  · rw [storeAtI_of_overruns hbs hover] at hk
    cases hk
    exact ⟨rfl, rfl, hover⟩
  · rw [storeAtI_of_fits hfits, State.advance_run, State.setMem_run, hrun] at hk
    cases hk

end

end Sys2Proof.Machine

namespace Sys2Proof

open Machine

/-- Settles O7: both bytes lie below `END`, so the fetch gives `op`, and the step is what it decodes to. -/
theorem stepRunsTheDecodedInstruction : Obligations.StepRunsTheDecodedInstruction := fun _ _ _ hrun hfits hop hd =>
  step_of_decode_ok hrun (fetch_of_fits hfits (eq_opcodeOf_of_toNat hop)) hd

/-- Settles O8: one lemma a stage, and a step that changes `run` raised. -/
theorem cycleRunsItsStagesInOrder : Obligations.CycleRunsItsStagesInOrder := by
  intro s
  refine ⟨step_of_not_running, fun hrun => ⟨fun hover => ⟨_, step_of_fetch_overruns hrun hover⟩,
    fun hfits op hop => ?_⟩, fun t h hne => ?_⟩
  · have hf := fetch_of_fits hfits (eq_opcodeOf_of_toNat hop)
    exact ⟨fun i hd => step_of_decode_ok hrun hf hd, fun e hd => step_of_decode_error hrun hf hd⟩
  · obtain ⟨k, info, rfl⟩ := step_raises_of_run_ne h hne
    rfl

/-- Settles O9: the recorded address is the larger of `pc` and `END`, and `END` is `pc + 1` where `pc` lies below it. -/
theorem fetchFaultRecordsLowestAddress : Obligations.FetchFaultRecordsLowestAddress := by
  intro s hrun hover
  rw [step_of_fetch_overruns hrun hover]
  congr 2
  split <;> omega

/-- Settles O10: each clause is a disjunct of `decode_error_iff`. -/
theorem decodeFaultRecordsTheOpcode : Obligations.DecodeFaultRecordsTheOpcode := by
  intro s op hrun hfits hop
  have hf := fetch_of_fits hfits (eq_opcodeOf_of_toNat hop)
  have hunimplemented (h : Unimplemented op) : step s = .next (raise .unimplementedOpcode op.toNat s) :=
    step_of_decode_error hrun hf ((decode_error_iff op _).mpr (.inr ⟨h, rfl⟩))
  refine ⟨fun hB => step_of_decode_error hrun hf ((decode_error_iff op _).mpr (.inl ⟨hB, rfl⟩)), ?_, ?_, ?_, ?_⟩
  · exact fun h0 hcls hret => hunimplemented (.inl ⟨h0, hcls, hret⟩)
  · exact fun h8 hn => hunimplemented (.inr (.inl ⟨h8, hn⟩))
  · exact fun hE h9E hA1 => hunimplemented (.inr (.inr (.inl ⟨hE, h9E, hA1⟩)))
  · exact fun hF hnn => hunimplemented (.inr (.inr (.inr ⟨hF, hnn⟩)))

/-- Settles O11: a step that changes `run` raised, a halted engine is moved by no host action but a reset, and no
instruction reads `run`. -/
theorem runStateOnlyHaltsAndOnlyResetRevives : Obligations.RunStateOnlyHaltsAndOnlyResetRevives := by
  refine ⟨fun s => step_of_not_running, fun k info s => raise_run s k info, fun s t h hne => ?_,
    fun as s k info => performAll_of_halted as s, fun l s => ⟨_, rfl, rfl⟩, fun i s r q => ?_⟩
  · have hrun : s.run = .running := by
      by_contra hnot
      rw [step_of_not_running hnot] at h
      cases h
      exact hne rfl
    obtain ⟨k, info, rfl⟩ := step_raises_of_run_ne h hne
    exact ⟨hrun, k, info, rfl⟩
  · obtain ⟨t, r', h, h'⟩ := exec_setRun i s r
    exact ⟨t, _, h, h', rfl⟩

/-- Settles O12: a step that changes `run` raised. -/
theorem faultingCycleChangesOnlyRun : Obligations.FaultingCycleChangesOnlyRun := fun _ _ => step_raises_of_run_ne

/-- Settles O13: seven instructions have a branch that raises; the others keep `run`. -/
theorem executeFaultsAreTheListedOnes : Obligations.ExecuteFaultsAreTheListedOnes := by
  intro i s t k info hrun h hk
  cases i
  case call nnn =>
    by_cases hfull : s.stackFull = true
    · obtain ⟨rfl, rfl⟩ := fault_of_raise (exec_call_of_stackFull nnn hfull) h hk
      exact .inl ⟨nnn, rfl, s.stackFull_iff.mp hfull, rfl, encode_call_toNat nnn⟩
    · exact absurd hk (not_halted_of_keeps hrun (exec_call_of_not_stackFull nnn hfull) rfl h)
  case ret =>
    cases hs : s.stack with
    | nil =>
      obtain ⟨rfl, rfl⟩ := fault_of_raise (exec_ret_of_stack_nil hs) h hk
      exact .inr (.inl ⟨rfl, rfl, rfl, rfl⟩)
    | cons top rest => exact absurd hk (not_halted_of_keeps hrun (exec_ret_of_stack_cons hs) rfl h)
  case addIV x =>
    by_cases hx : x = VF
    · subst hx
      obtain ⟨rfl, rfl⟩ := fault_of_raise (exec_addIV_VF s) h hk
      exact .inr (.inr (.inl ⟨rfl, rfl, rfl⟩))
    · exact absurd hk (not_halted_of_keeps hrun (exec_addIV_of_ne s hx) rfl h)
  case bcd x =>
    rw [exec_bcd] at h
    cases h
    obtain ⟨rfl, rfl, hover⟩ := storeAtI_fault (bs := bcdDigits (s.getV x)) hrun (Nat.succ_ne_zero 2) hk
    exact .inr (.inr (.inr ⟨rfl, rfl, .inl ⟨x, rfl, Nat.le_of_lt_succ hover⟩⟩))
  case dump x =>
    rw [exec_dump] at h
    cases h
    obtain ⟨rfl, rfl, hover⟩ := storeAtI_fault hrun (by simp) hk
    rw [State.regsUpTo_length] at hover
    exact .inr (.inr (.inr ⟨rfl, rfl, .inr (.inl ⟨x, rfl, Nat.le_of_lt_succ hover⟩)⟩))
  case load x =>
    obtain hover | hfits := Nat.lt_or_ge s.endAddr (s.I.toNat + x.val + 1)
    · obtain ⟨rfl, rfl⟩ := fault_of_raise (exec_load_of_overruns hover) h hk
      exact .inr (.inr (.inr ⟨rfl, rfl, .inr (.inr (.inl ⟨x, rfl, Nat.le_of_lt_succ hover⟩))⟩))
    · exact absurd hk (not_halted_of_keeps hrun (exec_load_of_fits hfits) rfl h)
  case drw x y n =>
    by_cases hfits : n = 0 ∨ s.I.toNat + n ≤ s.endAddr
    · exact absurd hk (not_halted_of_keeps hrun (exec_drw_of_fits x y hfits) rfl h)
    · obtain ⟨hn, hnot⟩ := not_or.mp hfits
      have hover := not_le.mp hnot
      obtain ⟨rfl, rfl⟩ := fault_of_raise (exec_drw_of_overruns x y hn hover) h hk
      exact .inr (.inr (.inr ⟨rfl, rfl, .inr (.inr (.inr ⟨x, y, n, rfl, Nat.pos_of_ne_zero hn, hover⟩))⟩))
  all_goals
    cases h
    exact absurd (hrun.symm.trans hk) nofun

/-- Settles O14: the two placed bytes read back, both below the raised `END`. -/
theorem placedOpcodeRunsNext : Obligations.PlacedOpcodeRunsNext := by
  intro s op i hwf hd
  have hhi := Memory.read_writeList_inside hwf s.pc.toNat 0 [hiByte op, loByte op] Nat.zero_lt_two
  rw [Nat.add_zero] at hhi
  have hlo := Memory.read_writeList_inside hwf s.pc.toNat 1 [hiByte op, loByte op] Nat.one_lt_two
  refine step_of_decode_ok (s.placeAtPc_run op) (fetch_of_fits ?_ ?_) hd
  · rw [State.placeAtPc_pc, State.placeAtPc_endAddr]
    omega
  · rw [State.placeAtPc_pc, State.placeAtPc_mem, hhi, hlo]
    exact (opcodeOf_bytes op).symm

end Sys2Proof

/-! The invariant of the machine and its frame: every step and every host action keeps `State.Inv`, and each part of the
state has its own writers. -/

namespace Sys2Proof.Machine

/-! ### Steps (rules R18, R42, R10) -/

section
variable {s t : State}

theorem State.Inv.of_eq (h : s.Inv) (hmem : t.mem = s.mem) (hstack : t.stack = s.stack)
    (hend : t.endAddr = s.endAddr) (hcfg : t.cfg = s.cfg) : t.Inv where
  memory := hmem ▸ h.memory
  stack := by
    unfold State.stackFits
    rw [hcfg, hstack]
    exact h.stack
  launch := by
    unfold State.launchLegal
    rw [hcfg, hend]
    exact h.launch
  above := by
    unfold State.aboveEndUntouched
    rw [hend, hmem]
    exact h.above

theorem State.Inv.of_raise (h : s.Inv) (k : FaultKind) (info : Nat) : (raise k info s).Inv := h.of_eq rfl rfl rfl rfl

/-- An instruction leaves memory canonical and every byte at or above `END` as it was. -/
theorem exec_memory_safe {i : Instr} (h : exec i s = .next t) (hwf : s.mem.wf) :
    t.mem.wf ∧ ∀ a, s.endAddr ≤ a → t.mem.read a = s.mem.read a := by
  obtain ⟨u, hu, hcases⟩ := exec_memory i s
  obtain rfl : u = t := by simpa [hu] using h
  obtain hsame | ⟨-, bs, hfits, hstore⟩ := hcases
  · rw [hsame]
    exact ⟨hwf, fun _ _ => rfl⟩
  · rw [hstore]
    exact ⟨Memory.writeList_wf hwf _ bs,
      fun a ha => Memory.read_writeList_outside hwf _ a bs (.inr (hfits.trans ha))⟩

/-- Only `CALL` pushes, and only on a stack that is not full. -/
theorem exec_stackFits {i : Instr} (h : exec i s = .next t) (hfits : s.stackFits) : t.stackFits := by
  intro d hd
  rw [(exec_parameters h).right] at hd
  obtain hlt | hle := Nat.lt_or_ge s.stack.length t.stack.length
  · obtain ⟨⟨nnn, rfl⟩, hpush⟩ := exec_stack_longer h hlt
    have hnot : s.stack.length ≠ d := by
      rintro rfl
      rw [exec_call_of_stackFull nnn (s.stackFull_iff.mpr hd)] at h
      cases h
      exact absurd hlt (lt_irrefl _)
    rw [hpush]
    exact Nat.lt_of_le_of_ne (hfits d hd) hnot
  · exact hle.trans (hfits d hd)

theorem exec_inv {i : Instr} (h : exec i s = .next t) (hinv : s.Inv) : t.Inv := by
  obtain ⟨hend, hcfg⟩ := exec_parameters h
  obtain ⟨hwf, habove⟩ := exec_memory_safe h hinv.memory
  refine ⟨hwf, exec_stackFits h hinv.stack, ?_, fun a ha => ?_⟩
  · unfold State.launchLegal
    rw [hend, hcfg]
    exact hinv.launch
  · rw [hend] at ha
    rw [habove a ha]
    exact hinv.above a ha

theorem step_inv (h : step s = .next t) (hinv : s.Inv) : t.Inv := by
  obtain rfl | ⟨k, info, rfl⟩ | ⟨i, hexec⟩ := step_raises_or_execs h
  · exact hinv
  · exact hinv.of_raise k info
  · exact exec_inv hexec hinv

end

/-! ### Launches (rules R26, R55, R190) -/

/-- Storing what the addresses read as at reset leaves the empty memory: the canonical form has no entry for it. -/
theorem writeList_background (a : Nat) (bs : List Byte)
    (h : ∀ k b, bs[k]? = some b → b = Memory.background (a + k)) : (Memory.mk []).writeList a bs = Memory.mk [] := by
  induction bs generalizing a with
  | nil => rfl
  | cons b bs ih =>
    have hb : b = Memory.background a := h 0 b rfl
    have hwrite : (Memory.mk []).write a b = Memory.mk [] := by simp [Memory.write, writeCells, consCell, hb]
    rw [Memory.writeList, hwrite]
    refine ih (a + 1) fun k c hc => ?_
    rw [h (k + 1) c hc]
    congr 1
    omega

theorem Launch.legal_iff (l : Launch) : l.legal = true ↔
    l.font.length = 80 ∧ l.lowFill.length = 432 ∧ l.config.legal = true ∧ l.endAddr ≤ l.config.memSize := by
  simp [Launch.legal, and_assoc]

theorem Launch.image_wf (l : Launch) : l.image.wf := Memory.writeList_wf reset_memory_wf 0 _

/-- A byte of the image is at its place in memory. -/
theorem Launch.image_read {l : Launch} {k : Nat} {b : Byte} (h : (l.font ++ l.lowFill ++ l.program)[k]? = some b) :
    l.image.read k = b := by
  obtain ⟨hk, rfl⟩ := List.getElem?_eq_some_iff.mp h
  have hread := Memory.read_writeList_inside reset_memory_wf 0 k (l.font ++ l.lowFill ++ l.program) hk
  rwa [Nat.zero_add] at hread

theorem Launch.image_read_above {l : Launch} (h : l.legal = true) (a : Nat) (ha : l.endAddr ≤ a) :
    l.image.read a = Memory.background a := by
  obtain ⟨hfont, hfill, -, -⟩ := l.legal_iff.mp h
  refine Memory.read_writeList_outside reset_memory_wf 0 a _ (.inr ?_)
  rw [List.length_append, List.length_append, hfont, hfill]
  unfold Launch.endAddr at ha
  omega

theorem State.relaunch_inv {l : Launch} (h : l.legal = true) (s : State) : (s.relaunch l).Inv := by
  obtain ⟨-, -, hcfg, hsize⟩ := l.legal_iff.mp h
  exact ⟨l.image_wf, fun d _ => Nat.zero_le d, ⟨Nat.le_add_right _ _, hsize, hcfg⟩, Launch.image_read_above h⟩

theorem default_image : ({} : Launch).image = Memory.mk [] := by
  refine writeList_background 0 _ fun k b hb => ?_
  rw [Memory.background, Nat.zero_add, List.getD_eq_getElem?_getD]
  rw [List.append_nil, List.getElem?_append] at hb
  split at hb
  case isTrue hk => rw [hb, Option.getD_some]
  case isFalse hk =>
    rw [List.getElem?_eq_none (not_lt.mp hk), Option.getD_none]
    exact List.eq_of_mem_replicate (List.mem_of_getElem? hb)

theorem default_legal : ({} : Launch).legal = true :=
  (Launch.legal_iff _).mpr ⟨rfl, List.length_replicate, rfl, by decide⟩

theorem launch_default : State.launch {} = State.reset := by
  unfold State.launch
  rw [default_image]
  rfl

theorem relaunch_default : State.reset.relaunch {} = State.reset := by
  unfold State.relaunch
  rw [launch_default]

/-! ### The writers of each part (rules R12 to R21) -/

theorem I_mem_partsWritten {i : Instr} (h : Part.I ∈ partsWritten i) :
    (∃ nnn, i = .ldIN nnn) ∨ ∃ x, i = .addIV x := by
  cases i <;> simp_all [partsWritten]

theorem DT_mem_partsWritten {i : Instr} (h : Part.DT ∈ partsWritten i) : ∃ x, i = .ldDTV x := by
  cases i <;> simp_all [partsWritten]

theorem ST_mem_partsWritten {i : Instr} (h : Part.ST ∈ partsWritten i) : ∃ x, i = .ldSTV x := by
  cases i <;> simp_all [partsWritten]

theorem screen_mem_partsWritten {i : Instr} (h : Part.pixels ∈ partsWritten i ∨ Part.events ∈ partsWritten i) :
    i = .cls ∨ ∃ x y n, i = .drw x y n := by
  cases i <;> simp_all [partsWritten]

theorem latch_mem_partsWritten {i : Instr} (h : Part.latch ∈ partsWritten i) :
    ∃ x, i = .ldVK x ∨ i = .skp x ∨ i = .sknp x := by
  cases i <;> simp_all [partsWritten]

theorem draws_mem_partsWritten {i : Instr} (h : Part.draws ∈ partsWritten i) : ∃ x nn, i = .rndVN x nn := by
  cases i <;> simp_all [partsWritten]

section
variable {i : Instr} {s t : State}

/-- A part that changed is one the instruction lists. -/
theorem mem_partsWritten_of_changed (h : exec i s = .next t) {p : Part} (hrun : p ≠ .run) (hne : ¬ p.same s t) :
    p ∈ partsWritten i := by
  by_contra hp
  exact hne (exec_part_same h hp hrun)

theorem mem_regsWritten_of_changed (h : exec i s = .next t) {r : RegIdx} (hne : t.getV r ≠ s.getV r) :
    r ∈ regsWritten i := by
  by_contra hr
  obtain ⟨u, hu, hcases⟩ := exec_raises_or_frames i s
  obtain rfl : u = t := by simpa [hu] using h
  obtain ⟨k, info, rfl⟩ | ⟨hregs, -⟩ := hcases
  · exact hne rfl
  · exact hne (hregs r hr)

theorem stores_of_mem_changed (h : exec i s = .next t) (hne : t.mem ≠ s.mem) : ∃ x, i = .bcd x ∨ i = .dump x := by
  obtain ⟨u, hu, hcases⟩ := exec_memory i s
  obtain rfl : u = t := by simpa [hu] using h
  obtain hsame | ⟨hi, -⟩ := hcases
  · exact absurd hsame hne
  · exact hi

end

end Sys2Proof.Machine

namespace Sys2Proof

open Machine

/-- Settles O16: a raise leaves what `Inv` speaks of; an instruction stores below `END` in canonical form, pushes only
on a stack that is not full, and leaves the parameters. -/
theorem stepKeepsTheInvariant : Obligations.StepKeepsTheInvariant := fun _ _ hinv h => step_inv h hinv

/-- Settles O17: a legal launch establishes the invariant, a step keeps it, and the other actions write nothing it
speaks of. -/
theorem hostActionKeepsTheInvariant : Obligations.HostActionKeepsTheInvariant := by
  intro a s t r hlegal hinv h
  cases a
  case step =>
    obtain ⟨u, hstep⟩ := step_answers_next s
    rw [perform, hstep] at h
    cases h
    exact step_inv hstep hinv
  case reset l =>
    cases h
    exact State.relaunch_inv (hlegal l rfl) s
  case tick | pushKey k | drain =>
    cases h
    exact hinv.of_eq rfl rfl rfl rfl

/-- Settles O53: the default image stores what memory reads as at reset anyway. -/
theorem resetIsTheDefaultLaunch : Obligations.ResetIsTheDefaultLaunch := launch_default

/-- Settles O15: the reset state is a legal launch. -/
theorem invariantHoldsAtReset : Obligations.InvariantHoldsAtReset := by
  have hinv : (State.reset.relaunch {}).Inv := State.relaunch_inv default_legal State.reset
  rwa [relaunch_default] at hinv

/-- Settles O18: what changed is listed by `partsWritten` or `regsWritten`, and these lists name the instructions. -/
theorem stateIsChangedOnlyByItsInstructions : Obligations.StateIsChangedOnlyByItsInstructions := by
  intro i s t h
  have hpart {p : Part} (hrun : p ≠ .run) (hne : ¬ p.same s t) : p ∈ partsWritten i :=
    mem_partsWritten_of_changed h hrun hne
  refine ⟨fun hne => I_mem_partsWritten (hpart nofun hne), fun hne => DT_mem_partsWritten (hpart nofun hne),
    fun hne => ST_mem_partsWritten (hpart nofun hne),
    fun hne => ((stack_mem_partsWritten_iff i).mp (hpart nofun hne)).symm,
    fun hne => screen_mem_partsWritten (hne.imp (hpart (p := .pixels) nofun) (hpart (p := .events) nofun)),
    fun hne => latch_mem_partsWritten (hpart nofun hne), stores_of_mem_changed h,
    fun hne => draws_mem_partsWritten (hpart nofun hne), fun r => mem_regsWritten_of_changed h, exec_parameters h⟩

/-- Settles O19: a raise leaves memory, and an instruction stores below `END`. -/
theorem stepNeverWritesAboveEnd : Obligations.StepNeverWritesAboveEnd := by
  intro s t hwf h
  obtain rfl | ⟨k, info, rfl⟩ | ⟨i, hexec⟩ := step_raises_or_execs h
  · exact ⟨fun _ _ => rfl, rfl, rfl⟩
  · exact ⟨fun _ _ => rfl, rfl, rfl⟩
  · exact ⟨(exec_memory_safe hexec hwf).right, exec_parameters hexec⟩

end Sys2Proof

/-! The event queue (rules R20, R152, R184): nothing reads it, and what it held since a reset replays to the display. -/

namespace Sys2Proof.Machine

/-! ### Two states that differ in the queue and the sound timer only -/

theorem blankUnread_withUnread (s : State) (es : List Event) (v : Byte) :
    blankUnread (s.withUnread s.run es v) = blankUnread s := rfl

theorem eq_withUnread_of_blankUnread_eq {s s' : State} (h : blankUnread s = blankUnread s') :
    s' = s.withUnread s.run s'.events s'.ST := by
  cases s
  cases s'
  simp only [blankUnread, State.mk.injEq] at h
  simp only [State.withUnread, State.mk.injEq]
  tauto

theorem exec_blankUnread {i : Instr} {s t t' : State} (es : List Event) (v : Byte) (h : exec i s = .next t)
    (h' : exec i (s.withUnread s.run es v) = .next t') : blankUnread t = blankUnread t' := by
  obtain ⟨u, r', es', v', hu, hu', hrun, -, -⟩ := exec_readsNone i s s.run es v
  obtain rfl : u = t := by simpa [hu] using h
  obtain rfl : u.withUnread r' es' v' = t' := by simpa [hu'] using h'
  obtain rfl : r' = u.run := by
    obtain ⟨hkept, rfl⟩ | hsame := hrun
    · exact hkept.symm
    · exact hsame
  exact (blankUnread_withUnread u es' v').symm

/-- The cycle takes the same course: it stops at the same stage with the same fault, or runs the same instruction. -/
theorem step_blankUnread {s t t' : State} (es : List Event) (v : Byte) (h : step s = .next t)
    (h' : step (s.withUnread s.run es v) = .next t') : blankUnread t = blankUnread t' := by
  obtain ⟨k, info, hrun, rfl⟩ | ⟨hrun, hover, rfl⟩ | ⟨op, e, hrun, hf, hd, rfl⟩ | ⟨op, i, hrun, hf, hd, hexec⟩ :=
    step_cases h
  · rw [step_of_not_running (by show t.run ≠ _; rw [hrun]; exact nofun)] at h'
    cases h'
    rfl
  · rw [step_of_fetch_overruns (s := s.withUnread s.run es v) hrun (Nat.le_of_lt_succ hover)] at h'
    cases h'
    rfl
  · rw [step_of_decode_error (s := s.withUnread s.run es v) hrun hf hd] at h'
    cases h'
    cases e <;> rfl
  · rw [step_of_decode_ok (s := s.withUnread s.run es v) hrun hf hd] at h'
    exact exec_blankUnread es v hexec h'

/-! ### The events of a step -/

theorem replay_clearAll (es : List Event) (g : Grid) : replay (es ++ [.clearAll]) g = Grid.blank :=
  replay_append es [.clearAll] g

theorem exec_replay {i : Instr} {s t : State} {g : Grid} (hg : replay s.events g = s.pixels)
    (h : exec i s = .next t) : replay t.events g = t.pixels := by
  by_cases hi : Part.pixels ∈ partsWritten i ∨ Part.events ∈ partsWritten i
  · obtain rfl | ⟨x, y, n, rfl⟩ := screen_mem_partsWritten hi
    · rw [exec_cls] at h
      cases h
      exact replay_clearAll s.events g
    · by_cases hfits : n = 0 ∨ s.I.toNat + n ≤ s.endAddr
      · rw [exec_drw_of_fits x y hfits] at h
        cases h
        exact Canvas.draw_replay s.canvas g _ hg
      · obtain ⟨hn, hover⟩ := not_or.mp hfits
        rw [exec_drw_of_overruns x y hn (not_le.mp hover)] at h
        cases h
        exact hg
  · obtain ⟨hpixels, hevents⟩ := not_or.mp hi
    have hp : t.pixels = s.pixels := exec_part_same (p := .pixels) h hpixels nofun
    have he : t.events = s.events := exec_part_same (p := .events) h hevents nofun
    rw [hp, he, hg]

theorem step_replay {s t : State} {g : Grid} (hg : replay s.events g = s.pixels) (h : step s = .next t) :
    replay t.events g = t.pixels := by
  obtain rfl | ⟨k, info, rfl⟩ | ⟨i, hexec⟩ := step_raises_or_execs h
  · exact hg
  · exact hg
  · exact exec_replay hg hexec

/-! ### Whole runs -/

/-- One action without reset: what a consumer had and what this action drained leave it where the queue continues. -/
theorem perform_replay {a : HostAction} {s t : State} {r : HostResult} {g : Grid} (ha : a.keepsRun = true)
    (hg : replay s.events g = s.pixels) (h : perform a s = .next (t, r)) :
    replay t.events (replay (drainedEvents [r]) g) = t.pixels := by
  cases a
  case reset l => cases ha
  case step =>
    obtain ⟨u, hstep⟩ := step_answers_next s
    rw [perform, hstep] at h
    cases h
    exact step_replay hg hstep
  case tick | pushKey k =>
    cases h
    exact hg
  case drain =>
    cases h
    rw [drainedEvents, drainedEvents, List.append_nil]
    exact hg

theorem drainedEvents_cons (r : HostResult) (rs : List HostResult) :
    drainedEvents (r :: rs) = drainedEvents [r] ++ drainedEvents rs := by
  cases r <;> simp [drainedEvents]

/-- A run is its first action and then the rest. -/
theorem performAll_cons_inv {a : HostAction} {as : List HostAction} {s u : State} {rs : List HostResult}
    (h : performAll (a :: as) s = .next (u, rs)) :
    ∃ t r rs', perform a s = .next (t, r) ∧ performAll as t = .next (u, rs') ∧ rs = r :: rs' := by
  unfold performAll at h
  split at h
  case h_1 | h_2 => cases h
  case h_3 t r hperform =>
    split at h
    case h_2 | h_3 => cases h
    case h_1 v rs' hall =>
      cases h
      exact ⟨t, r, rs', hperform, hall, rfl⟩

theorem performAll_replay {as : List HostAction} {s t : State} {rs : List HostResult} {g : Grid}
    (has : ∀ a ∈ as, a.keepsRun = true) (hg : replay s.events g = s.pixels) (h : performAll as s = .next (t, rs)) :
    replay (drainedEvents rs ++ t.events) g = t.pixels := by
  induction as generalizing s rs g with
  | nil =>
    cases h
    exact hg
  | cons a as ih =>
    obtain ⟨ha, has⟩ := List.forall_mem_cons.mp has
    obtain ⟨u, r, rs', hperform, hall, rfl⟩ := performAll_cons_inv h
    rw [drainedEvents_cons, List.append_assoc, replay_append]
    exact ih has (perform_replay ha hg hperform) hall

end Sys2Proof.Machine

namespace Sys2Proof

open Machine

/-- Settles O20: the second state is the first with another queue and another sound timer, which no stage of the cycle
reads. -/
theorem queueAndSoundTimerAreNeverRead : Obligations.QueueAndSoundTimerAreNeverRead := by
  intro s s' t t' hs h h'
  rw [eq_withUnread_of_blankUnread_eq hs] at h'
  exact step_blankUnread s'.events s'.ST h h'

/-- Settles O21: a raise changes neither; only `CLS` and `DRW` write the grid or the queue, and their events replay. -/
theorem eventsOfAStepReplayTheGrid : Obligations.EventsOfAStepReplayTheGrid := fun _ _ _ => step_replay

/-- Settles O22: a reset leaves an unset grid and no event, from where the run is followed action by action. -/
theorem drainedHistoryReplaysTheDisplay : Obligations.DrainedHistoryReplaysTheDisplay := by
  intro l as s t rs has h
  obtain ⟨u, r, rs', hreset, hall, rfl⟩ := performAll_cons_inv h
  cases hreset
  have hblank : replay (s.relaunch l).events Grid.blank = (s.relaunch l).pixels := rfl
  rw [drainedEvents]
  exact performAll_replay has hblank hall

end Sys2Proof

/-! Control transfer and conditional skips (rules R102, R103, R110 to R116). -/

namespace Sys2Proof.Machine

theorem zextAddr_toNat (nnn : BitVec 12) : (zextAddr nnn).toNat = nnn.toNat :=
  BitVec.toNat_setWidth_of_le (by decide)

theorem frame_setPc (s : State) (p : Word) : Frame [] [] s (s.setPc p) :=
  ⟨fun _ _ => rfl, fun q _ => by cases q <;> simp [Part.same]⟩

/-- The `pc` a skip leaves, with its predicate as a proposition. -/
theorem State.skipIf_decide_pc (s : State) (c : Prop) [Decidable c] :
    (s.skipIf (decide c)).pc = if c then s.pc + 4 else s.pc + 2 := by
  simp

/-- A skip's outcome, its `pc` and its frame, for the state `u` its operands leave. -/
theorem skip_completes {i : Instr} {s u : State} {c : Prop} [Decidable c]
    (h : exec i s = .next (u.skipIf (decide c))) (hpc : u.pc = s.pc) :
    exec i s = .next (u.skipIf (decide c)) ∧ (u.skipIf (decide c)).pc = (if c then s.pc + 4 else s.pc + 2) ∧
      Frame (regsWritten i) (partsWritten i) s (u.skipIf (decide c)) := by
  have hskip : (u.skipIf (decide c)).pc = if c then s.pc + 4 else s.pc + 2 := by rw [State.skipIf_decide_pc, hpc]
  exact ⟨h, hskip, exec_frame_of_skip h hskip⟩

end Sys2Proof.Machine

namespace Sys2Proof

open Machine

/-- Settles O23: `JP` writes `pc` and nothing else. -/
theorem jumpSetsPc : Obligations.JumpSetsPc := fun nnn s =>
  ⟨_, exec_jp nnn s, zextAddr_toNat nnn, frame_setPc s _⟩

/-- Settles O24: the two branches of `CALL`. -/
theorem callPushesTheReturnAddress : Obligations.CallPushesTheReturnAddress := by
  intro nnn s
  refine ⟨fun hroom => ?_, fun hfull => ?_⟩
  · have hnot : ¬ s.stackFull = true := fun hfull => hroom (s.stackFull_iff.mp hfull)
    exact ⟨_, exec_call_of_not_stackFull nnn hnot, zextAddr_toNat nnn, rfl, frame_setStack_setPc s _ _⟩
  · rw [exec_call_of_stackFull nnn (s.stackFull_iff.mpr hfull), encode_call_toNat]

/-- Settles O26: `RET` pops what `CALL` pushed. -/
theorem callThenReturnResumes : Obligations.CallThenReturnResumes := by
  intro nnn s hroom
  have hnot : ¬ s.stackFull = true := fun hfull => hroom (s.stackFull_iff.mp hfull)
  exact ⟨_, exec_call_of_not_stackFull nnn hnot, exec_ret_of_stack_cons rfl⟩

/-- Settles O27: each skip is `skipIf` of its predicate; the keyboard forms skip from the state with an empty latch. -/
theorem skipsCompareAndSkip : Obligations.SkipsCompareAndSkip := by
  intro x y nn s
  obtain ⟨hskp, hskpPc, hskpFrame⟩ := skip_completes (exec_skp x s) rfl
  obtain ⟨hsknp, hsknpPc, hsknpFrame⟩ := skip_completes (exec_sknp x s) rfl
  exact ⟨⟨_, skip_completes (exec_seVN x nn s) rfl⟩, ⟨_, skip_completes (exec_sneVN x nn s) rfl⟩,
    ⟨_, skip_completes (exec_seVV x y s) rfl⟩, ⟨_, skip_completes (exec_sneVV x y s) rfl⟩,
    ⟨_, hskp, hskpPc, rfl, hskpFrame⟩, ⟨_, hsknp, hsknpPc, rfl, hsknpFrame⟩⟩

end Sys2Proof

/-! Register set and arithmetic (rules R120 to R132 of spec/42_register_set_and_alu.md). -/

namespace Sys2Proof.Machine

theorem flagByte_toNat (c : Prop) [Decidable c] : (flagByte (decide c)).toNat = if c then 1 else 0 := by
  unfold flagByte
  by_cases hc : c <;> simp [hc]

/-! ### The registers after a flag writer: the destination keeps its result, also as `VF` (rule R121) -/

section
variable (s : State) (flag result : Byte) (x : RegIdx)

theorem getV_setFlagThen_advance_self : (s.setFlagThen flag x result).advance.getV x = result := by simp

theorem getV_setFlagThen_advance_VF (hx : x ≠ VF) : (s.setFlagThen flag x result).advance.getV VF = flag := by
  simp [hx.symm]

theorem getV_setV_advance_self : (s.setV x result).advance.getV x = result := by simp

end

/-! ### Sums and differences modulo 256 -/

theorem toNat_sub_byte (a b : Byte) : ((a - b).toNat : Int) = ((a.toNat : Int) - b.toNat) % 256 := by
  have := a.isLt
  have := b.isLt
  rw [BitVec.toNat_sub]
  omega

theorem wideDiff_toNat (a b : Byte) : (wideDiff a b).toNat = (65536 - b.toNat + a.toNat) % 65536 := by
  have ha : (a.setWidth 16).toNat = a.toNat := BitVec.toNat_setWidth_of_le (by decide)
  have hb : (b.setWidth 16).toNat = b.toNat := BitVec.toNat_setWidth_of_le (by decide)
  rw [wideDiff, BitVec.toNat_sub, ha, hb]

theorem loByte_wideDiff (a b : Byte) : loByte (wideDiff a b) = a - b := by
  have := a.isLt
  have := b.isLt
  apply BitVec.eq_of_toNat_eq
  rw [loByte_toNat, wideDiff_toNat, BitVec.toNat_sub]
  omega

/-- The high byte of the 16-bit difference is zero exactly when nothing was borrowed. -/
theorem hiByte_wideDiff_ne_zero_iff (a b : Byte) : hiByte (wideDiff a b) ≠ 0 ↔ a.toNat < b.toNat := by
  have := a.isLt
  have := b.isLt
  have hzero : hiByte (wideDiff a b) = 0 ↔ (hiByte (wideDiff a b)).toNat = 0 := BitVec.toNat_inj.symm
  rw [Ne, hzero, hiByte_toNat, wideDiff_toNat]
  omega

theorem borrowFlag_toNat (a b : Byte) : (borrowFlag a b).toNat = if a.toNat < b.toNat then 1 else 0 := by
  rw [borrowFlag, flagByte_toNat]
  exact if_congr (hiByte_wideDiff_ne_zero_iff a b) rfl rfl

theorem shiftedOutFlag_toNat (b : Byte) : (shiftedOutFlag b).toNat = b.toNat % 2 := by
  unfold shiftedOutFlag flagByte
  rw [BitVec.getLsbD, Nat.testBit_zero]
  obtain h | h := Nat.mod_two_eq_zero_or_one b.toNat <;> simp [h]

/-- Each value of `SHIFT_SRC` names its register as the source (rule R130). -/
theorem shiftSource_eq {s : State} {x y : RegIdx} {src : Byte} (hvy : s.cfg.shiftSrc = .vy → src = s.getV y)
    (hvx : s.cfg.shiftSrc = .vx → src = s.getV x) : s.shiftSource x y = src := by
  unfold State.shiftSource
  cases h : s.cfg.shiftSrc
  case vy => exact (hvy h).symm
  case vx => exact (hvx h).symm

end Sys2Proof.Machine

namespace Sys2Proof

open Machine

/-- Settles O29: the sum of two bytes is the byte sum, and only `V[x]` is written. -/
theorem addImmediateWraps : Obligations.AddImmediateWraps := by
  intro x nn s
  refine ⟨_, exec_addVN x nn s, ?_, rfl, exec_frame_of_advance (exec_addVN x nn s) rfl⟩
  rw [getV_setV_advance_self, BitVec.toNat_add]

/-- Settles O30: the byte operations work bit by bit, and only `V[x]` is written. -/
theorem copyAndBitwiseWorkBitByBit : Obligations.CopyAndBitwiseWorkBitByBit := by
  intro x y s
  refine ⟨⟨_, exec_ldVV x y s, getV_setV_advance_self s _ x, rfl, exec_frame_of_advance (exec_ldVV x y s) rfl⟩,
    ⟨_, exec_orVV x y s, fun k => ?_, rfl, exec_frame_of_advance (exec_orVV x y s) rfl⟩,
    ⟨_, exec_andVV x y s, fun k => ?_, rfl, exec_frame_of_advance (exec_andVV x y s) rfl⟩,
    ⟨_, exec_xorVV x y s, fun k => ?_, rfl, exec_frame_of_advance (exec_xorVV x y s) rfl⟩⟩
  · rw [getV_setV_advance_self, BitVec.getLsbD_or]
  · rw [getV_setV_advance_self, BitVec.getLsbD_and]
  · rw [getV_setV_advance_self, BitVec.getLsbD_xor]

/-- Settles O31: the byte sum, and the carry flag as a number. -/
theorem addReportsTheCarry : Obligations.AddReportsTheCarry := by
  intro x y s
  refine ⟨_, exec_addVV x y s, ?_, fun hx => ?_, rfl, exec_frame_of_advance (exec_addVV x y s) rfl⟩
  · rw [getV_setFlagThen_advance_self, BitVec.toNat_add]
  · rw [getV_setFlagThen_advance_VF _ _ _ _ hx, carryFlag, flagByte_toNat]

/-- Settles O32: the low byte of the 16-bit difference is the byte difference, and its high byte tells the borrow. -/
theorem subReportsTheBorrow : Obligations.SubReportsTheBorrow := by
  intro x y s
  refine ⟨_, exec_subVV x y s, ?_, fun hx => ?_, rfl, exec_frame_of_advance (exec_subVV x y s) rfl⟩
  · rw [getV_setFlagThen_advance_self, loByte_wideDiff, toNat_sub_byte]
  · rw [getV_setFlagThen_advance_VF _ _ _ _ hx, borrowFlag_toNat]

/-- Settles O33: a right shift by 1 halves the source, and the bit it drops is the source modulo 2. -/
theorem shiftReportsTheLowBit : Obligations.ShiftReportsTheLowBit := by
  intro x y s src hvy hvx
  have hsrc := shiftSource_eq hvy hvx
  refine ⟨_, exec_shrVV x y s, ?_, fun hx => ?_, rfl, exec_frame_of_advance (exec_shrVV x y s) rfl⟩
  · rw [getV_setFlagThen_advance_self, hsrc, BitVec.toNat_ushiftRight, Nat.shiftRight_one]
  · rw [getV_setFlagThen_advance_VF _ _ _ _ hx, hsrc, shiftedOutFlag_toNat]

/-- Settles O34: the byte difference, and only `V[x]` is written. -/
theorem reverseSubtractWritesNoFlag : Obligations.ReverseSubtractWritesNoFlag := by
  intro x y s
  refine ⟨_, exec_subnVV x y s, ?_, rfl, exec_frame_of_advance (exec_subnVV x y s) rfl⟩
  rw [getV_setV_advance_self, toNat_sub_byte]

/-- Settles O35: a byte masked with `nn` has no bit that `nn` has not. -/
theorem randomIsADrawUnderTheMask : Obligations.RandomIsADrawUnderTheMask := by
  intro x nn s
  have hdraw := getV_setV_advance_self s.countDraw (Config.rnd s.draws &&& nn) x
  refine ⟨_, exec_rndVN x nn s, hdraw, ?_, rfl, rfl, exec_frame_of_advance (exec_rndVN x nn s) rfl⟩
  rw [hdraw, BitVec.and_assoc, BitVec.and_not_self]
  exact BitVec.and_zero

end Sys2Proof

/-! Index register and memory (rules R140 to R145 of spec/43_index_and_memory.md, R52). -/

namespace Sys2Proof.Machine

@[simp] theorem bcdDigits_length (v : Byte) : (bcdDigits v).length = 3 := rfl

/-! ### The two storing instructions -/

section
variable {s : State} {x : RegIdx}

theorem exec_bcd_of_fits (h : s.I.toNat + 3 ≤ s.endAddr) : exec (.bcd x) s =
    .next (s.setMem (s.mem.writeList s.I.toNat (bcdDigits (s.getV x)))).advance := by
  rw [exec_bcd, storeAtI_of_fits (by rwa [bcdDigits_length])]

theorem exec_bcd_of_overruns (h : s.endAddr < s.I.toNat + 3) :
    exec (.bcd x) s = .next (raise .addressOutOfBounds (max s.I.toNat s.endAddr) s) := by
  rw [exec_bcd, storeAtI_of_overruns (by simp) (by rwa [bcdDigits_length])]

theorem exec_dump_of_fits (h : s.I.toNat + x.val + 1 ≤ s.endAddr) : exec (.dump x) s =
    .next (s.setMem (s.mem.writeList s.I.toNat (s.regsUpTo x))).advance := by
  rw [exec_dump, storeAtI_of_fits (by rwa [State.regsUpTo_length])]

theorem exec_dump_of_overruns (h : s.endAddr < s.I.toNat + x.val + 1) :
    exec (.dump x) s = .next (raise .addressOutOfBounds (max s.I.toNat s.endAddr) s) := by
  rw [exec_dump, storeAtI_of_overruns (by simp) (by rwa [State.regsUpTo_length])]

/-- After a store a fetch anywhere below `END` gives the two bytes as the store left them (rule R52). -/
theorem fetch_after_store {bs : List Byte} (hwf : s.mem.wf) (p : Word) (hp : p.toNat + 1 < s.endAddr) :
    ∃ op, ((s.setMem (s.mem.writeList s.I.toNat bs)).advance.setPc p).fetch = .ok op ∧
      op.toNat = 256 * (overlaid s bs p.toNat).toNat + (overlaid s bs (p.toNat + 1)).toNat := by
  refine ⟨_, fetch_of_fits hp rfl, ?_⟩
  rw [← read_store_overlaid hwf, ← read_store_overlaid hwf, opcodeOf_toNat, Nat.mul_comm]
  rfl

end

theorem loadFrom_readList (s : State) (x r : RegIdx) :
    (loadFrom s.V 0 (s.mem.readList s.I.toNat (x.val + 1)))[r.val] =
      if r.val ≤ x.val then s.mem.read (s.I.toNat + r.val) else s.getV r := by
  rw [loadFrom_getElem _ _ _ _ r.isLt]
  simp only [Memory.readList_length, Nat.zero_le, true_and, Nat.sub_zero, Nat.lt_succ_iff]
  split
  case isTrue h => exact Memory.readList_getElem _ _ _ _ (Nat.lt_succ_of_le h)
  case isFalse h => rfl

end Sys2Proof.Machine

namespace Sys2Proof

open Machine

/-- Settles O36: `I` takes the zero-extended address. -/
theorem setIndexLoadsTheAddress : Obligations.SetIndexLoadsTheAddress := fun nnn s =>
  ⟨_, exec_ldIN nnn s, zextAddr_toNat nnn, rfl, exec_frame_of_advance (exec_ldIN nnn s) rfl⟩

/-- Settles O37: the 16-bit sum, or the one reserved operand. -/
theorem indexAddWrapsAndRefusesVF : Obligations.IndexAddWrapsAndRefusesVF := by
  intro x s
  refine ⟨fun hx => ?_, exec_addIV_VF s⟩
  have h := exec_addIV_of_ne s hx
  refine ⟨_, h, ?_, rfl, exec_frame_of_advance h rfl⟩
  rw [State.advance_I, State.setI_I, BitVec.toNat_add, BitVec.toNat_setWidth_of_le (by decide)]

/-- Settles O38: the three digits read back where they were stored, and every other byte as before. -/
theorem bcdStoresThreeDigits : Obligations.BcdStoresThreeDigits := by
  intro x s hwf hfits
  have h := exec_bcd_of_fits (x := x) hfits
  have hdigit (k : Nat) (hk : k < 3) := Memory.read_writeList_inside hwf s.I.toNat k (bcdDigits (s.getV x)) hk
  refine ⟨_, h, ?_, ?_, ?_, fun a ha => ?_, rfl, exec_frame_of_advance h rfl⟩
  · exact congrArg BitVec.toNat (hdigit 0 (by decide))
  · exact congrArg BitVec.toNat (hdigit 1 (by decide))
  · exact congrArg BitVec.toNat (hdigit 2 (by decide))
  · exact Memory.read_writeList_outside hwf _ a _ ha

/-- Settles O39: each register reads back where it was stored, and every other byte as before. -/
theorem dumpStoresTheRegisters : Obligations.DumpStoresTheRegisters := by
  intro x s hwf hfits
  have h := exec_dump_of_fits (x := x) hfits
  refine ⟨_, h, fun r hr => ?_, fun a ha => ?_, rfl, exec_frame_of_advance h rfl⟩
  · rw [← s.regsUpTo_getElem x r hr]
    exact Memory.read_writeList_inside hwf _ _ _ _
  · exact Memory.read_writeList_outside hwf _ a _ (by rwa [State.regsUpTo_length])

/-- Settles O40: a register up to `x` takes the byte at its place, one above keeps its value. -/
theorem loadReadsTheRegisters : Obligations.LoadReadsTheRegisters := by
  intro x s hfits
  have h := exec_load_of_fits hfits
  refine ⟨_, h, fun r hr => ?_, fun r hr => ?_, rfl,
    (exec_frame_of_advance h rfl).mono fun r _ => List.mem_finRange r⟩
  · exact (loadFrom_readList s x r).trans (if_pos hr)
  · exact (loadFrom_readList s x r).trans (if_neg hr.not_ge)

/-- Settles O41: the overrunning branch of each accessing instruction; its recorded address is the larger of `I` and
`END`. -/
theorem accessPastEndFaultsBeforeAnyWrite : Obligations.AccessPastEndFaultsBeforeAnyWrite := by
  intro x y n s bad hbad
  obtain rfl : bad = max s.I.toNat s.endAddr := by
    rw [hbad]
    split <;> omega
  exact ⟨exec_bcd_of_overruns, exec_dump_of_overruns, exec_load_of_overruns,
    fun hn => exec_drw_of_overruns x y hn.ne'⟩

/-- Settles O42: both stores leave memory overlaid with their bytes, and a fetch reads that memory. -/
theorem storeIsSeenByTheNextFetch : Obligations.StoreIsSeenByTheNextFetch := fun _ _ hwf =>
  ⟨fun hfits => ⟨_, exec_bcd_of_fits hfits, rfl, fetch_after_store hwf⟩,
    fun hfits => ⟨_, exec_dump_of_fits hfits, rfl, fetch_after_store hwf⟩⟩

end Sys2Proof

/-! The sprite compositor run by `DRW` (rules R151, R152 of spec/44_display.md). -/

namespace Sys2Proof.Machine

theorem drawTargets_nodup (s : State) (x y : RegIdx) {n : Nat} (hn : n ≤ 15) : (drawTargets s x y n).Nodup :=
  spriteTargets_nodup _ _ _ (by rw [Memory.readList_length]; omega)

theorem mem_drawTargets_iff (s : State) (x y : RegIdx) (n : Nat) (a : Fin 64) (b : Fin 32) :
    (a, b) ∈ drawTargets s x y n ↔ spriteCovers s x y n a b :=
  (spriteCovers_iff s x y n a b).symm

/-! ### A finished draw, part by part -/

section
variable (s : State) {ps : List (Fin 64 × Fin 32)}

theorem finishDraw_pixel (hps : ps.Nodup) (a : Fin 64) (b : Fin 32) :
    (s.finishDraw (s.canvas.draw ps)).pixel a b = if (a, b) ∈ ps then !(s.pixel a b) else s.pixel a b :=
  Canvas.draw_get s.canvas ps hps a b

theorem finishDraw_getV_VF (c : Canvas) : (s.finishDraw c).getV VF = collisionFlag c.hit :=
  State.getV_setV_self _ VF _

theorem finishDraw_getV_ne (c : Canvas) {r : RegIdx} (hr : r ≠ VF) : (s.finishDraw c).getV r = s.getV r :=
  State.getV_setV_ne _ VF r _ hr

/-- A draw collides exactly when one of its pixels was set. -/
theorem draw_hit_iff (hps : ps.Nodup) :
    (s.canvas.draw ps).hit = true ↔ ∃ a b, (a, b) ∈ ps ∧ s.pixel a b = true := by
  rw [Canvas.draw_hit _ _ hps, Bool.or_eq_true, List.any_eq_true]
  constructor
  · rintro (hfalse | ⟨⟨a, b⟩, hmem, hset⟩)
    · cases hfalse
    · exact ⟨a, b, hmem, hset⟩
  · rintro ⟨a, b, hmem, hset⟩
    exact .inr ⟨(a, b), hmem, hset⟩

/-- `VF` after a draw, in terms of a condition `C` that says when it collides. -/
theorem finishDraw_collision {C : Prop} (hps : ps.Nodup) (hC : (∃ a b, (a, b) ∈ ps ∧ s.pixel a b = true) ↔ C) :
    (C → (s.finishDraw (s.canvas.draw ps)).getV VF = 1) ∧
      (¬ C → (s.finishDraw (s.canvas.draw ps)).getV VF = 0) := by
  rw [finishDraw_getV_VF, ← hC, ← draw_hit_iff s hps]
  cases (s.canvas.draw ps).hit <;> simp [collisionFlag, flagByte]

end

/-- The events of the pixels of one row, in the form the statement gives them (rule R151). -/
theorem map_rowTargets (s : State) (x0 y : Nat) (row : Byte) :
    (rowTargets x0 y row).map (fun p => Event.pixel p.1 p.2 (!(s.pixel p.1 p.2))) =
      (List.range 8).filterMap fun q =>
        if row.getLsbD q then
          some (.pixel (Fin.ofNat 64 (x0 + (7 - q))) (Fin.ofNat 32 y)
            (!(s.pixel (Fin.ofNat 64 (x0 + (7 - q))) (Fin.ofNat 32 y))))
        else none := by
  rw [rowTargets, List.map_filterMap]
  congr 1
  funext q
  split <;> rfl

/-- The first draw leaves what the second one reads, so both have the same targets. -/
theorem drawTargets_finishDraw (s : State) (c : Canvas) {x y : RegIdx} (n : Nat) (hx : x ≠ VF) (hy : y ≠ VF) :
    drawTargets (s.finishDraw c) x y n = drawTargets s x y n := by
  unfold drawTargets
  rw [finishDraw_getV_ne s c hx, finishDraw_getV_ne s c hy]
  rfl

end Sys2Proof.Machine

namespace Sys2Proof

open Machine

/-- Settles O44: the targets of the draw are the covered pixels, each toggled once. -/
theorem drawTogglesTheSpriteAndReportsCollision : Obligations.DrawTogglesTheSpriteAndReportsCollision := by
  intro x y n s hn hfits
  have h := exec_drw_of_fits x y hfits
  have hps := drawTargets_nodup s x y hn
  have hC := exists₂_congr fun a b => and_congr_left' (c := s.pixel a b = true) (mem_drawTargets_iff s x y n a b)
  obtain ⟨hset, hunset⟩ := finishDraw_collision s hps hC
  refine ⟨_, h, fun a b => ?_, hset, hunset, rfl, exec_frame_of_advance h rfl⟩
  rw [finishDraw_pixel s hps, ← mem_drawTargets_iff]
  split <;> simp_all

/-- Settles O45: one event a target, row by row and bit by bit, with the state opposite to the one before. -/
theorem drawEmitsItsEventsInOrder : Obligations.DrawEmitsItsEventsInOrder := by
  intro x y n s hn hfits
  refine ⟨_, exec_drw_of_fits x y hfits, ?_⟩
  have hevents := Canvas.draw_events s.canvas _ (drawTargets_nodup s x y hn)
  refine hevents.trans (congrArg (s.events ++ ·) ?_)
  rw [drawTargets, spriteTargets_readList, List.map_flatMap]
  exact List.flatMap_congr fun p _ => map_rowTargets s _ _ _

/-- Settles O46: the second draw has the targets of the first, and flips each of them back. -/
theorem drawTwiceRestoresTheGrid : Obligations.DrawTwiceRestoresTheGrid := by
  intro x y n s hn hfits hx hy
  have hps := drawTargets_nodup s x y hn
  have hfirst := exec_drw_of_fits x y hfits
  have hflip := finishDraw_pixel s hps
  set t := s.finishDraw (s.canvas.draw (drawTargets s x y n)) with ht
  have hsecond := exec_drw_of_fits (s := t) x y hfits
  rw [ht, drawTargets_finishDraw s _ n hx hy, ← ht] at hsecond
  have hC : (∃ a b, (a, b) ∈ drawTargets s x y n ∧ t.pixel a b = true) ↔
      ∃ a b, spriteCovers s x y n a b ∧ s.pixel a b = false := by
    refine exists₂_congr fun a b => ?_
    rw [← mem_drawTargets_iff]
    exact and_congr_right fun hmem => by rw [hflip, if_pos hmem, Bool.not_eq_true']
  obtain ⟨hset, hunset⟩ := finishDraw_collision t hps hC
  refine ⟨t, _, hfirst, hsecond, Grid.ext_get fun a b => ?_, hset, hunset⟩
  have hback := finishDraw_pixel t hps a b
  rw [hflip] at hback
  refine hback.trans ?_
  split
  · exact Bool.not_not _
  · rfl

end Sys2Proof

/-! Timers, the keyboard latch and the host's actions (rules R160 to R163, R178, R183, R184, R190). -/

namespace Sys2Proof.Machine

/-- The byte a read of a full latch gives is the latched code. -/
theorem latchByte_some {s : State} {k : BitVec 4} (h : s.latch = some k) : (latchByte s).toNat = k.toNat := by
  rw [latchByte, h]
  exact BitVec.toNat_setWidth_of_le (by decide)

theorem latchByte_none {s : State} (h : s.latch = none) : latchByte s = Config.noKey := by
  rw [latchByte, h]

theorem tickTimer_toNat (v : Byte) : (tickTimer v).toNat = v.toNat - 1 := by
  unfold tickTimer
  split
  case isTrue h => rw [h]; rfl
  case isFalse h => bv_omega

theorem frame_tick (s : State) : Frame [] [.DT, .ST] s s.tick :=
  ⟨fun _ _ => rfl, fun p hp => by cases p <;> simp_all [Part.same]⟩

theorem Part.same_trans {p : Part} {s t u : State} (h : p.same s t) (h' : p.same t u) : p.same s u := by
  cases p
  case memory => exact fun a => (h' a).trans (h a)
  case parameters => exact ⟨h'.left.trans h.left, h'.right.trans h.right⟩
  all_goals exact Eq.trans h' h

theorem Frame.trans {regs : List RegIdx} {parts : List Part} {s t u : State} (h : Frame regs parts s t)
    (h' : Frame regs parts t u) : Frame regs parts s u :=
  ⟨fun r hr => (h'.left r hr).trans (h.left r hr), fun p hp => Part.same_trans (h.right p hp) (h'.right p hp)⟩

theorem Frame.refl (regs : List RegIdx) (parts : List Part) (s : State) : Frame regs parts s s :=
  ⟨fun _ _ => rfl, fun p _ => by cases p <;> simp [Part.same]⟩

/-- Several ticks count both timers down and leave the rest. -/
theorem iterate_tick (k : Nat) (s : State) : (State.tick^[k] s).DT.toNat = s.DT.toNat - k ∧
    (State.tick^[k] s).ST.toNat = s.ST.toNat - k ∧ (State.tick^[k] s).pc = s.pc ∧
    Frame [] [.DT, .ST] s (State.tick^[k] s) := by
  induction k generalizing s with
  | zero => exact ⟨rfl, rfl, rfl, Frame.refl _ _ s⟩
  | succ k ih =>
    obtain ⟨hDT, hST, hpc, hframe⟩ := ih s.tick
    rw [Function.iterate_succ_apply]
    refine ⟨?_, ?_, hpc, (frame_tick s).trans hframe⟩
    · rw [hDT, State.tick_DT, tickTimer_toNat]
      omega
    · rw [hST, State.tick_ST, tickTimer_toNat]
      omega

theorem frame_setLatch (s : State) (k : Option (BitVec 4)) : Frame [] [.latch] s (s.setLatch k) :=
  ⟨fun _ _ => rfl, fun p hp => by cases p <;> simp_all [Part.same]⟩

theorem frame_drain (s : State) : Frame [] [.events] s s.drain :=
  ⟨fun _ _ => rfl, fun p hp => by cases p <;> simp_all [Part.same]⟩

/-! ### The bytes of a legal image (table T-MAP, rule R41) -/

section
variable {l : Launch} {k : Nat} {b : Byte}

theorem Launch.image_read_font (h : l.font[k]? = some b) : l.image.read k = b := by
  obtain ⟨hk, -⟩ := List.getElem?_eq_some_iff.mp h
  refine Launch.image_read ?_
  rw [List.append_assoc, List.getElem?_append_left hk, h]

theorem Launch.image_read_lowFill (hlegal : l.legal = true) (h : l.lowFill[k]? = some b) :
    l.image.read (0x50 + k) = b := by
  obtain ⟨hfont, -, -, -⟩ := l.legal_iff.mp hlegal
  obtain ⟨hk, -⟩ := List.getElem?_eq_some_iff.mp h
  refine Launch.image_read ?_
  rw [List.append_assoc, List.getElem?_append_right (by omega), List.getElem?_append_left (by omega), hfont,
    Nat.add_sub_cancel_left, h]

theorem Launch.image_read_program (hlegal : l.legal = true) (h : l.program[k]? = some b) :
    l.image.read (0x200 + k) = b := by
  obtain ⟨hfont, hfill, -, -⟩ := l.legal_iff.mp hlegal
  have hlen : (l.font ++ l.lowFill).length = 0x200 := by rw [List.length_append, hfont, hfill]
  refine Launch.image_read ?_
  rw [List.getElem?_append_right (by omega), hlen, Nat.add_sub_cancel_left, h]

end

theorem reset_getV (r : RegIdx) : State.reset.getV r = 0 := Vector.getElem_replicate r.isLt

end Sys2Proof.Machine

namespace Sys2Proof

open Machine

/-- Settles O47: each move writes its one destination. -/
theorem timerMovesCopyTheByte : Obligations.TimerMovesCopyTheByte := fun x s =>
  ⟨⟨_, exec_ldVDT x s, getV_setV_advance_self s s.DT x, rfl, exec_frame_of_advance (exec_ldVDT x s) rfl⟩,
    ⟨_, exec_ldDTV x s, rfl, rfl, exec_frame_of_advance (exec_ldDTV x s) rfl⟩,
    ⟨_, exec_ldSTV x s, rfl, rfl, exec_frame_of_advance (exec_ldSTV x s) rfl⟩⟩

/-- Settles O48: `V[x]` takes the byte of the latch, which the read has emptied. -/
theorem keyReadConsumesTheLatch : Obligations.KeyReadConsumesTheLatch := by
  intro x s
  have hread := getV_setV_advance_self (s.setLatch none) (latchByte s) x
  refine ⟨_, exec_ldVK x s, fun k hk => ?_, fun hnone => ?_, rfl, rfl, exec_frame_of_advance (exec_ldVK x s) rfl⟩
  · rw [hread, latchByte_some hk]
  · rw [hread, latchByte_none hnone]

/-- Settles O49: the first read gives the pushed code and empties the latch, which the second one finds empty. -/
theorem pushedKeyIsReadOnce : Obligations.PushedKeyIsReadOnce := by
  intro x k s
  obtain ⟨t, ht, hcode, -, hempty, -, -⟩ := keyReadConsumesTheLatch x (s.pushKey (some k))
  obtain ⟨u, hu, -, hnone, -, -, -⟩ := keyReadConsumesTheLatch x t
  exact ⟨t, u, ht, hcode k rfl, hu, hnone hempty⟩

/-- Settles O50, by induction on the number of ticks. -/
theorem ticksCountDownToZero : Obligations.TicksCountDownToZero := iterate_tick

/-- Settles O51: a push writes the latch, a drain the queue. -/
theorem pushReplacesAndDrainEmpties : Obligations.PushReplacesAndDrainEmpties := fun k s =>
  ⟨⟨_, rfl, rfl, rfl, frame_setLatch s k⟩, ⟨_, rfl, rfl, rfl, frame_drain s⟩⟩

/-- Settles O52: the reset values are those of `State.reset`, the memory is the image of the launch. -/
theorem launchLeavesTheResetTable : Obligations.LaunchLeavesTheResetTable := by
  intro l s hlegal
  exact ⟨s.relaunch l, rfl, rfl, rfl, rfl, rfl, reset_getV, rfl, rfl, Grid.get_blank, rfl, rfl, rfl, rfl,
    fun k b => Launch.image_read_font, fun k b => Launch.image_read_lowFill hlegal,
    fun k b => Launch.image_read_program hlegal⟩

end Sys2Proof
